-- ==== Sys2Proof/Word.lean ====
section
/-! DEFINITION. The word types of the block (spec/30_encoding.md R80, R86, R89; all values unsigned, R10). -/

namespace Sys2Proof

/-- One byte of the medium or of a frame (R51). -/
abbrev Byte := BitVec 8

/-- A 16-bit register, address, record word or metadata value (R21, R23, R89, R92). -/
abbrev Word := BitVec 16

/-- One host command word (R80). -/
abbrev CommandWord := BitVec 64

/-- One response beat (R86). -/
abbrev Beat := BitVec 32

/-- A list of bytes as the transport carries it (R31). -/
abbrev Bytes := List Byte

end Sys2Proof
end

