-- ==== Sys2Proof/Config.lean ====
section
/-! DEFINITION. The implementation parameters (spec/00_scope.md R7, R8, R29) as one record, the constraints a model
checks on a parameter set (R7), and the default set that exec and step use. -/

namespace Sys2Proof

/-- `MEDIUM_OPCODES` (R7, R95): the opcode byte of each medium command. -/
structure Opcodes where
  wren : Byte
  wrdi : Byte
  rdsr : Byte
  wrsr : Byte
  read : Byte
  fastRead : Byte
  write : Byte
  sleep : Byte
  rdid : Byte
  deriving DecidableEq, Repr

/-- The nine opcode bytes in the order of R7. -/
def Opcodes.toList (o : Opcodes) : Bytes :=
  [o.wren, o.wrdi, o.rdsr, o.wrsr, o.read, o.fastRead, o.write, o.sleep, o.rdid]

/-- The parameters of R7. They are arguments of the definitions below, never state (R29). -/
structure Params where
  slotBytes : Nat
  ringStart : Nat
  /-- `RING_REGION_END`, the last byte of the RING region, inclusive. -/
  ringRegionEnd : Nat
  /-- `CAPACITY`, the saturation bound of `count`. -/
  capacity : Nat
  /-- `N_SLOTS`, the number of slot positions: `CAPACITY` or `CAPACITY + 1` (D1). -/
  nSlots : Nat
  metaCountAddr : Nat
  metaCursorAddr : Nat
  /-- Last byte of CONFIG, which starts at 0. -/
  configLast : Nat
  metaFirst : Nat
  metaLast : Nat
  levelLimit : Nat
  threadLimit : Nat
  codeLimit : Nat
  metaBigEndian : Bool
  /-- `ADDR_BYTES`, the address bytes in a medium frame, most significant first (R50, R59). -/
  addrBytes : Nat
  opcodes : Opcodes
  mediumBytes : Nat
  eraseValue : Byte
  deriving DecidableEq, Repr

/-- `RING_LAST`, the address of the last slot (R7). -/
def Params.ringLast (P : Params) : Nat := P.ringStart + P.slotBytes * (P.nSlots - 1)

/-- The last byte of the RING region or of the last slot, whichever is higher: with `N_SLOTS = CAPACITY + 1` the last
slot passes `RING_REGION_END` by one byte (D1). -/
def Params.ringEnd (P : Params) : Nat := max P.ringRegionEnd (P.ringLast + 1)

/-- Two inclusive byte ranges share no byte. -/
abbrev rangesDisjoint (lo hi lo' hi' : Nat) : Prop := hi < lo' ∨ hi' < lo

/-- The constraints of R7 on a parameter set. The RING byte range is the region and every slot (`Params.ringEnd`). The
bound of `MEDIUM_BYTES` is R7's, the place of `count` and `writeCursor` inside METADATA is R52's.
DEDUCED: the last slot starts inside the region (D1, log 1); the nine opcode bytes differ, since R98 tells a frame by its
first byte (log 3); a frame has room for the 16 bits of an address (R95, log 3); the field limits are no wider than the
record's fields, since `Enc` keeps the low bits (R123, log 3). -/
abbrev Params.Legal (P : Params) : Prop :=
  P.slotBytes = 2 ∧ P.ringStart % 2 = 0 ∧
  1 ≤ P.capacity ∧ P.capacity ≤ P.nSlots ∧ P.nSlots ≤ P.capacity + 1 ∧
  P.ringLast + P.slotBytes - 1 ≤ 65535 ∧ P.capacity ≤ 65535 ∧
  rangesDisjoint 0 P.configLast P.metaFirst P.metaLast ∧
  rangesDisjoint 0 P.configLast P.ringStart P.ringEnd ∧
  rangesDisjoint P.metaFirst P.metaLast P.ringStart P.ringEnd ∧
  P.ringLast ≤ P.ringRegionEnd ∧
  rangesDisjoint P.metaCountAddr (P.metaCountAddr + 1) P.metaCursorAddr (P.metaCursorAddr + 1) ∧
  P.metaFirst ≤ P.metaCountAddr ∧ P.metaCountAddr + 1 ≤ P.metaLast ∧
  P.metaFirst ≤ P.metaCursorAddr ∧ P.metaCursorAddr + 1 ≤ P.metaLast ∧
  P.metaLast < P.mediumBytes ∧ P.metaLast ≤ 65535 ∧
  P.ringLast + P.slotBytes ≤ P.mediumBytes ∧
  P.levelLimit ≤ 8 ∧ P.threadLimit ≤ 8 ∧ P.codeLimit ≤ 1024 ∧
  2 ≤ P.addrBytes ∧ P.opcodes.toList.Nodup

/-- The defaults of R7. The source's values: SLOT_BYTES, RING_START, RING_REGION_END, CAPACITY, the metadata addresses,
the regions and the three limits. DESIGN CHOICE of the spec, taken here: N_SLOTS (D1, log 1), META_BIG_ENDIAN (D3, log 2).
PRESUMED (the spec marks them as general knowledge): ADDR_BYTES (D5, log 3), MEDIUM_OPCODES (D6, log 3), MEDIUM_BYTES (D7, log 4),
ERASE_VALUE (D8, log 5). -/
def Config.params : Params where
  slotBytes := 2
  ringStart := 200
  ringRegionEnd := 32766
  capacity := 16283
  nSlots := 16283
  metaCountAddr := 100
  metaCursorAddr := 102
  configLast := 99
  metaFirst := 100
  metaLast := 199
  levelLimit := 8
  threadLimit := 8
  codeLimit := 1023
  metaBigEndian := true
  addrBytes := 2
  opcodes :=
    { wren := 0x06, wrdi := 0x04, rdsr := 0x05, wrsr := 0x01, read := 0x03, fastRead := 0x0B, write := 0x02,
      sleep := 0xB9, rdid := 0x9F }
  mediumBytes := 32768
  eraseValue := 0xFF

/-- What became of a frame at the medium, apart from what the transport reported: an `ok` is no acknowledgement (R65,
R116). -/
inductive Fate where
  /-- The medium carried the frame out as R65 says. -/
  | done
  /-- The frame had no effect on the medium (a lost WRITE, R71; a WREN that did not set the latch, R116). -/
  | lost
  /-- A WRITE that failed part-way: the addressed byte holds any value (R71, spec/93 item 9), `WEL` any value (item 13). -/
  | leaves (b : Byte) (wel : Bool)
  /-- A READ at a held medium delivers these bytes, any values (R35, log 11). While "hold" is inactive the medium's own
  bytes are delivered all the same (R66). -/
  | delivers (b0 b1 : Byte)
  deriving DecidableEq, Repr, Inhabited

/-- What becomes of another agent's frame at a medium whose "hold" input is active: no rule says it, so it is free. The
argument is the number of such frames so far (log 19). -/
opaque Config.heldFate : Nat → Fate

end Sys2Proof
end

