-- ==== Sys2Proof/Syntax.lean ====
section
/-! DEFINITION. The instructions: the six host commands (spec/30_encoding.md R81) and the nine medium command frames
(R95, R97), one constructor per row of spec/opcode_table.json. -/

namespace Sys2Proof

/-- One row of the opcode table with its operands. -/
inductive Instr where
  /-- R171: bootstrap. -/
  | init
  /-- R147, operands R82: full-width fields, so that out-of-range arguments can be expressed. -/
  | append (level thread : Byte) (code : Word)
  /-- R150. -/
  | lastRecord
  /-- R151, operand R83. -/
  | recordAt (logicalIndex : Word)
  /-- R190, alias ALL_FROM_OLDEST. -/
  | traverseOldest
  /-- R191, alias ALL_FROM_NEWEST. -/
  | traverseNewest
  /-- R95 `WREN`: set the medium's write-enable latch. -/
  | mediumWren
  /-- R95 `WRDI`: clear it. -/
  | mediumWrdi
  /-- R95 `READ(A, n)`: `n` bytes received (R130: 1 or 2). The count is the exchange's, not a bit of the frame (log 18). -/
  | mediumRead (addr : Word) (n : Nat)
  /-- R95 `WRITE(A, d)`: one byte (R63). -/
  | mediumWrite (addr : Word) (d : Byte)
  /-- R97: read-status, never issued. -/
  | mediumRdsr
  /-- R97: write-status, never issued. -/
  | mediumWrsr
  /-- R97: fast-read-bytes, never issued. -/
  | mediumFastRead
  /-- R97: sleep, never issued. -/
  | mediumSleep
  /-- R97: read-device-id, never issued. -/
  | mediumRdid
  deriving DecidableEq, Repr

end Sys2Proof
end

