-- ==== Sys2Proof/WellFormed.lean ====
section
/-! DEFINITION. Which instructions the encodings can express. -/

namespace Sys2Proof

/-- R130: a READ receives 1 or 2 bytes. Every other operand is a field of the width its encoding gives it (R82, R83,
R95), so every value of it can be encoded; an out-of-range APPEND or RECORD_AT operand is a legal word that the command
answers INVALID_ARGUMENT. -/
def Instr.wellFormed : Instr → Bool
  | .mediumRead _ n => n == 1 || n == 2
  | .init => true
  | .append _ _ _ => true
  | .lastRecord => true
  | .recordAt _ => true
  | .traverseOldest => true
  | .traverseNewest => true
  | .mediumWren => true
  | .mediumWrdi => true
  | .mediumWrite _ _ => true
  | .mediumRdsr => true
  | .mediumWrsr => true
  | .mediumFastRead => true
  | .mediumSleep => true
  | .mediumRdid => true

end Sys2Proof
end

