-- ==== Sys2Proof/Decode.lean ====
section
/-! DEFINITION. The decoder and the encoder of the two channels: 64-bit host command words (spec/30_encoding.md
R80-R85, R94) and medium frames (R95, R98). -/

namespace Sys2Proof

/-- One exchange as the block hands it to the transport (R12): the bytes transmitted and the number of bytes to receive. -/
structure Exchange where
  tx : Bytes
  n : Nat
  deriving DecidableEq, Repr

/-- What carries an instruction: a command word on the request channel or an exchange on the transport channel. -/
inductive Wire where
  | command (w : CommandWord)
  | exchange (x : Exchange)
  deriving DecidableEq, Repr

/-- Why a decoder refuses: the first three are the cases of R85, the others say that the bytes are no frame of R95. -/
inductive Reject where
  /-- `OP` is not one of the six values of R81. -/
  | illegalOpcode
  /-- `RSV` is not zero. -/
  | reservedBits
  /-- An operand field that must be zero is not (R83, R84). -/
  | operandBits
  /-- The first byte is no opcode of `MEDIUM_OPCODES`. -/
  | unknownFrame
  /-- The frame's address has more than 16 bits (only where `ADDR_BYTES` is above 2, log 3). -/
  | addressBits
  /-- The frame has not the length R98 gives it. -/
  | frameLength
  /-- The exchange receives another number of bytes than R95 gives the frame. -/
  | receiveCount
  deriving DecidableEq, Repr

/-! ## Host command words -/

/-- `CMD[63:56]` (R80). -/
def cmdOp (w : CommandWord) : Byte := w.extractLsb' 56 8
/-- `CMD[55:32]` (R80). -/
def cmdRsv (w : CommandWord) : BitVec 24 := w.extractLsb' 32 24
/-- `CMD[31:16]` (R80). -/
def cmdA (w : CommandWord) : Word := w.extractLsb' 16 16
/-- `CMD[15:8]` (R80). -/
def cmdB (w : CommandWord) : Byte := w.extractLsb' 8 8
/-- `CMD[7:0]` (R80). -/
def cmdC (w : CommandWord) : Byte := w.extractLsb' 0 8

/-- A command without operands: `CMD[31:0]` must be zero (R84). -/
def noOperand (w : CommandWord) (i : Instr) : Except Reject Instr :=
  if cmdA w = 0 ∧ cmdB w = 0 ∧ cmdC w = 0 then .ok i else .error .operandBits

/-- The command a word stands for, or the first reason of R85 why it is illegal. -/
def decodeCommand (w : CommandWord) : Except Reject Instr :=
  if cmdOp w = 0 ∨ 6 < (cmdOp w).toNat then .error .illegalOpcode
  else if cmdRsv w ≠ 0 then .error .reservedBits
  else if cmdOp w = 1 then noOperand w .init
  else if cmdOp w = 2 then .ok (.append (cmdC w) (cmdB w) (cmdA w))
  else if cmdOp w = 3 then noOperand w .lastRecord
  else if cmdOp w = 4 then
    if cmdB w = 0 ∧ cmdC w = 0 then .ok (.recordAt (cmdA w)) else .error .operandBits
  else if cmdOp w = 5 then noOperand w .traverseOldest
  else noOperand w .traverseNewest

/-- The word with these fields (R80). -/
def commandWord (op : Byte) (a : Word) (b c : Byte) : CommandWord := op ++ (0 : BitVec 24) ++ a ++ b ++ c

/-! ## Medium frames -/

/-- How many bytes a frame transmits, told by its first byte (R95, R98). Of the five commands the block never issues
only the one opcode byte is given (R96). -/
def frameLength (P : Params) (op : Byte) : Option Nat :=
  if op = P.opcodes.read then some (1 + P.addrBytes)
  else if op = P.opcodes.write then some (2 + P.addrBytes)
  else if op ∈ P.opcodes.toList then some 1
  else none

/-- The address in a frame, most significant byte first (R59). -/
def frameAddr (hi lo : Byte) : Word := hi ++ lo

/-- Take an address of `k + 2` bytes, most significant first, from the front of a frame's operands: the 16-bit address of
R95 stands in the last two, and the `k` before them are zero. -/
def takeAddress : Nat → Bytes → Except Reject (Word × Bytes)
  | 0, hi :: lo :: rest => .ok (frameAddr hi lo, rest)
  | 0, _ => .error .frameLength
  | k + 1, b :: rest => if b = 0 then takeAddress k rest else .error .addressBits
  | _ + 1, [] => .error .frameLength

/-- A frame of the opcode alone: one byte, nothing received. -/
def opcodeFrame (x : Exchange) (i : Instr) : Except Reject Instr :=
  if x.tx.length ≠ 1 then .error .frameLength else if x.n ≠ 0 then .error .receiveCount else .ok i

/-- The medium frame an exchange carries (R95, R98). -/
def decodeFrame (P : Params) (x : Exchange) : Except Reject Instr :=
  match x.tx with
  | [] => .error .frameLength
  | op :: operands =>
    if op = P.opcodes.wren then opcodeFrame x .mediumWren
    else if op = P.opcodes.wrdi then opcodeFrame x .mediumWrdi
    else if op = P.opcodes.read then
      match takeAddress (P.addrBytes - 2) operands with
      | .error r => .error r
      | .ok (a, []) => if x.n = 1 ∨ x.n = 2 then .ok (.mediumRead a x.n) else .error .receiveCount
      | .ok (_, _ :: _) => .error .frameLength
    else if op = P.opcodes.write then
      match takeAddress (P.addrBytes - 2) operands with
      | .error r => .error r
      | .ok (a, [d]) => if x.n = 0 then .ok (.mediumWrite a d) else .error .receiveCount
      | .ok (_, []) => .error .frameLength
      | .ok (_, _ :: _ :: _) => .error .frameLength
    else if op = P.opcodes.rdsr then opcodeFrame x .mediumRdsr
    else if op = P.opcodes.wrsr then opcodeFrame x .mediumWrsr
    else if op = P.opcodes.fastRead then opcodeFrame x .mediumFastRead
    else if op = P.opcodes.sleep then opcodeFrame x .mediumSleep
    else if op = P.opcodes.rdid then opcodeFrame x .mediumRdid
    else .error .unknownFrame

/-- The decoder of both channels. -/
def decode (P : Params) : Wire → Except Reject Instr
  | .command w => decodeCommand w
  | .exchange x => decodeFrame P x

/-! ## The encoder -/

/-- `A[15:8]` of a frame address (R95). -/
def addrHi (a : Word) : Byte := a.extractLsb' 8 8
/-- `A[7:0]` of a frame address (R95). -/
def addrLo (a : Word) : Byte := a.extractLsb' 0 8

/-- The `ADDR_BYTES` address bytes of a frame, most significant first (R50, R59, R95). -/
def addressBytes (P : Params) (a : Word) : Bytes := List.replicate (P.addrBytes - 2) 0 ++ [addrHi a, addrLo a]

/-- The exchange of a frame of one byte. -/
def oneByteFrame (op : Byte) : Exchange := { tx := [op], n := 0 }

/-- `READ(A, n)` (R95). -/
def readFrame (P : Params) (a : Word) (n : Nat) : Exchange := { tx := P.opcodes.read :: addressBytes P a, n := n }

/-- `WRITE(A, d)` (R95). -/
def writeFrame (P : Params) (a : Word) (d : Byte) : Exchange :=
  { tx := P.opcodes.write :: (addressBytes P a ++ [d]), n := 0 }

/-- The words of an instruction (R80, R94, R95). -/
def encode (P : Params) : Instr → Wire
  | .init => .command (commandWord 0x01 0 0 0)
  | .append level thread code => .command (commandWord 0x02 code thread level)
  | .lastRecord => .command (commandWord 0x03 0 0 0)
  | .recordAt i => .command (commandWord 0x04 i 0 0)
  | .traverseOldest => .command (commandWord 0x05 0 0 0)
  | .traverseNewest => .command (commandWord 0x06 0 0 0)
  | .mediumWren => .exchange (oneByteFrame P.opcodes.wren)
  | .mediumWrdi => .exchange (oneByteFrame P.opcodes.wrdi)
  | .mediumRead a n => .exchange (readFrame P a n)
  | .mediumWrite a d => .exchange (writeFrame P a d)
  | .mediumRdsr => .exchange (oneByteFrame P.opcodes.rdsr)
  | .mediumWrsr => .exchange (oneByteFrame P.opcodes.wrsr)
  | .mediumFastRead => .exchange (oneByteFrame P.opcodes.fastRead)
  | .mediumSleep => .exchange (oneByteFrame P.opcodes.sleep)
  | .mediumRdid => .exchange (oneByteFrame P.opcodes.rdid)

/-! ## Table words -/

/-- A table word laid out as the hardware carries it. A row of more than 32 bits is a host command word. A shorter row
is a frame whose first transmitted byte is the lowest eight bits, cut to the length its first byte gives (R98); the bits
above `nbits` are zero. DESIGN CHOICE: a READ row receives one byte, since the row has no bits for the count (log 18). -/
def tableWire (P : Params) (nbits w : Nat) : Wire :=
  if 32 < nbits then .command (BitVec.ofNat 64 w)
  else
    let v := w % 2 ^ nbits
    let op := BitVec.ofNat 8 v
    .exchange
      { tx := (List.range ((frameLength P op).getD 4)).map fun k => BitVec.ofNat 8 (v / 256 ^ k)
        n := if op = P.opcodes.read then 1 else 0 }

/-- The instruction the decoder reads from the table word `w` of `nbits` bits, under the default parameters. -/
def decodeTableWord (nbits w : Nat) : Option Instr :=
  match decode Config.params (tableWire Config.params nbits w) with
  | .ok i => some i
  | .error _ => none

end Sys2Proof
end

