-- ==== Sys2Proof/Machine/State.lean ====
section
/-! DEFINITION. The state of the machine as plain data (spec/10_state.md R20-R37), its reset value (R37,
spec/70_reset_and_hazards.md R230), and the reasons a step can stop. -/

namespace Sys2Proof.Machine

/-- `MODE` (R20). -/
inductive Mode where
  | uninit
  | boot
  deriving DecidableEq, Repr

/-- The two registers that hold no value while `MODE = UNINIT` (R22). -/
inductive CachedRegister where
  | count
  | cursor
  deriving DecidableEq, Repr

/-- The status kinds of spec/60_exceptions.md R201, and OK (numbers: `Status.code`, R87). -/
inductive Status where
  | ok
  | uninitialized
  | transportError
  | transportBusy
  | transportTimeout
  | invalidArgument
  | writeFailed
  | zeroRecords
  | illegalCommand
  deriving DecidableEq, Repr

/-- The outcome of an exchange (R31). -/
inductive TransportOutcome where
  | ok
  | busy
  | timeout
  | error
  deriving DecidableEq, Repr

/-- What happens at one exchange of the block: the free input of R31 and R38 (spec/92 D32), one per exchange. -/
inductive Answer where
  /-- The exchange completes with this outcome, and this became of its frame. -/
  | returns (o : TransportOutcome) (f : Fate)
  /-- Power is lost while the exchange is in progress (R232, R234): the byte of a WRITE in progress then holds `b`, any
  value, and the medium's `WEL` is `wel`, any value, after power-on. -/
  | powerLoss (b : Byte) (wel : Bool)
  deriving DecidableEq, Repr

/-- What reaches the machine while the block is idle, in the order of arrival (log 14). -/
inductive Arrival where
  /-- The host sends a command word; the block is idle and accepts it at once (R30). -/
  | command (w : CommandWord)
  /-- An exchange another agent of the medium puts on the transport (spec/70 R238, R249). -/
  | frame (x : Exchange)
  /-- Another agent changes a byte of the medium (R36, spec/70 R246, R250). -/
  | externalByte (a : Nat) (b : Byte)
  /-- The medium's "protect" and "hold" inputs are driven (R35, spec/70 R236). -/
  | pins (protect hold : Bool)
  /-- Power is lost and restored (spec/70 R230, R234); `wel` is the latch afterwards, any value. -/
  | powerCycle (wel : Bool)
  deriving DecidableEq, Repr

/-- One exchange as it was observed on the transport channel (spec/00_scope.md R19); `none` marks an exchange that power
loss cut off. -/
structure ExchangeRecord where
  tx : Bytes
  n : Nat
  outcome : Option TransportOutcome
  rx : Bytes
  deriving DecidableEq, Repr

/-- The five places of the command pseudocodes that call `WriteVerify` (R147, R171). -/
inductive WriteJob where
  /-- APPEND: the record at `CURSOR`. -/
  | payload
  /-- APPEND: `NEWCOUNT`. -/
  | newCount
  /-- APPEND: `NEWCURSOR`. -/
  | newCursor
  /-- INIT, state B_FIX_CNT of R175. -/
  | fixCount
  /-- INIT, state B_FIX_CUR of R175. -/
  | fixCursor
  deriving DecidableEq, Repr

/-- The exchange of `WriteVerify` that comes next for byte `J` (R131, R111). -/
inductive GateStep where
  | wren
  | write
  /-- The closing WRDI; `r` is the gate's status so far (`r1` or `r2` of R111). -/
  | wrdi (r : Status)
  | readBack
  deriving DecidableEq, Repr

/-- `k` of `RUN(c, k)` (R25): the next step of the command's pseudocode. -/
inductive Position where
  /-- `k = 0`: accepted, nothing done (R30). -/
  | start
  /-- INIT, state B_RD_CNT of R175. -/
  | readCount
  /-- INIT, state B_RD_CUR of R175. -/
  | readCursor
  /-- Inside a `WriteVerify`. -/
  | write (job : WriteJob) (g : GateStep)
  /-- The record read of LAST_RECORD, RECORD_AT or a traversal (R150, R151, R190). -/
  | readRecord
  deriving DecidableEq, Repr

/-- `PHASE` (R25). -/
inductive Phase where
  | idle
  | run (c : Instr) (k : Position)
  deriving DecidableEq, Repr

/-- The medium's bytes that differ from `ERASE_VALUE`, addresses strictly rising (canonical form: `Mem.wf`). -/
abbrev Mem := List Host.Cell

/-- The whole machine: the block, its channels, the medium, and the free inputs still to come. -/
structure State where
  /-- `MODE` (R20). -/
  mode : Mode
  /-- `COUNT` (R21); read only through `readCount`. -/
  count : Word
  /-- `CURSOR` (R23); read only through `readCursor`. -/
  cursor : Word
  /-- `PHASE` (R25). -/
  phase : Phase
  /-- Scratch `HI` (R27). -/
  hi : Byte
  /-- Scratch `LO` (R27). -/
  lo : Byte
  /-- Scratch `NEWCOUNT` (R27). -/
  newCount : Word
  /-- Scratch `NEWCURSOR` (R27). -/
  newCursor : Word
  /-- Scratch `RB` (R27). -/
  rb : Byte
  /-- Scratch `I` (R27). -/
  i : Word
  /-- Scratch `J` (R27). -/
  j : Byte
  /-- Scratch `CNT0` (R27). -/
  cnt0 : Word
  /-- Scratch `CUR0` (R27). -/
  cur0 : Word
  /-- Host request channel: the words that wait for the block, oldest first (R30, R37). -/
  requests : List CommandWord
  /-- What is still to reach the machine from outside, next first: the model's own (log 14). -/
  inbox : List Arrival
  /-- Host response channel: the beats sent, oldest first (R32). -/
  response : List Beat
  /-- Transport channel: the exchange in progress, if any (R31, R37). -/
  transport : Option Exchange
  /-- What the coming exchanges of the block will meet, next first (R31, log 10). -/
  answers : List Answer
  /-- The model's record of the exchanges so far, oldest first (R19, log 22). -/
  exchanges : List ExchangeRecord
  /-- The medium's content (R33). -/
  mem : Mem
  /-- The medium's write-enable latch (R34). -/
  wel : Bool
  /-- The medium's "protect" input, true when active (R35). -/
  protect : Bool
  /-- The medium's "hold" input, true when active (R35). -/
  hold : Bool
  /-- The model's count of another agent's frames at a held medium, the argument of `Config.heldFate` (log 19). -/
  heldFrames : Nat
  deriving DecidableEq, Repr

/-- Why the machine stops. No rule of the block reaches one of the first two or the last (spec/93, treatment `fault`). -/
inductive Fault where
  /-- A read of COUNT or CURSOR while MODE = UNINIT, which must fault (R22). Safe. -/
  | holdsNoValue (r : CachedRegister)
  /-- A wrap function applied to an address that is not `Valid` (spec/43_ring_manager.md R140). Safe. -/
  | notValidSlot (a : Nat)
  /-- An access outside `0 .. MEDIUM_BYTES - 1` (spec/20_memory.md R50), by another agent's frame or change; the block
  makes none (R56). Safe. -/
  | beyondMedium (a : Nat)
  /-- The sequencer is at a position that is none of its command's, or runs with no exchange in progress. Safe. -/
  | outOfStep
  deriving DecidableEq, Repr

/-- Why an instruction is given no meaning. -/
inductive Refusal where
  /-- The dispatcher has no meaning for the instruction. Safe. -/
  | notModelled (mnemonic : String)
  /-- A medium command the spec lists and gives no effect: RDSR, WRSR, FAST_READ, SLEEP, RDID (R97, R213, log 17). Safe. -/
  | mediumEffectNotGiven (mnemonic : String)
  /-- Another agent's bytes on the transport are no frame of R95 (log 17). Safe. -/
  | notAFrame (r : Reject)
  deriving DecidableEq, Repr

/-- The state after reset (R37, R230). The spec's values: MODE, PHASE, the channels, and a factory-fresh medium
(nothing listed: every byte reads `ERASE_VALUE`). DESIGN CHOICE: 0 in COUNT and CURSOR, which hold no value until INIT
succeeds (log 6), and in the scratch registers (log 7); WEL clear, both inputs inactive (log 8); no answer scripted
(log 10), nothing still to arrive (log 14), an empty record (log 22) and no frame counted (log 19). -/
def State.reset : State where
  mode := .uninit
  count := 0
  cursor := 0
  phase := .idle
  hi := 0
  lo := 0
  newCount := 0
  newCursor := 0
  rb := 0
  i := 0
  j := 0
  cnt0 := 0
  cur0 := 0
  requests := []
  inbox := []
  response := []
  transport := none
  answers := []
  exchanges := []
  mem := []
  wel := false
  protect := false
  hold := false
  heldFrames := 0

end Sys2Proof.Machine
end

