-- ==== Sys2Proof/Machine/Ops.lean ====
section
/-! DEFINITION. The shared operations: the medium's bytes, the medium's frames (spec/20_memory.md R65), the cached
registers (spec/10_state.md R22), beats and termination (spec/60_exceptions.md R200), reset (spec/70 R230). -/

namespace Sys2Proof.Machine

/-! ## The medium's bytes -/

/-- The canonical form from address `lo` on: addresses rise, and no entry equals the erase value `e`. -/
def Mem.wfFrom (e : Byte) : Nat → Mem → Bool
  | _, [] => true
  | lo, (a, v) :: rest => decide (lo ≤ a) && decide (v ≠ e) && Mem.wfFrom e (a + 1) rest

/-- The canonical form of a medium's content. -/
def Mem.wf (e : Byte) (m : Mem) : Bool := Mem.wfFrom e 0 m

/-- Every listed address is below `n`. -/
def Mem.within (n : Nat) (m : Mem) : Bool := m.all fun c => decide (c.1 < n)

/-- The byte at `a`; an unlisted byte reads as the erase value (R72). -/
def Mem.read (e : Byte) : Mem → Nat → Byte
  | [], _ => e
  | (b, v) :: rest, a => if a = b then v else if a < b then e else Mem.read e rest a

/-- Store `v` at `a`; storing the erase value removes the entry. -/
def Mem.write (e : Byte) : Mem → Nat → Byte → Mem
  | [], a, v => if v = e then [] else [(a, v)]
  | (b, w) :: rest, a, v =>
    if a = b then if v = e then rest else (a, v) :: rest
    else if a < b then if v = e then (b, w) :: rest else (a, v) :: (b, w) :: rest
    else (b, w) :: Mem.write e rest a v

/-- The `n` bytes at `a, a+1, …` (R51). -/
def Mem.readBytes (e : Byte) (m : Mem) (a : Nat) : Nat → Bytes
  | 0 => []
  | n + 1 => Mem.read e m a :: Mem.readBytes e m (a + 1) n

/-! ## Status, beats, termination -/

/-- The number of a status (R87). -/
def Status.code : Status → BitVec 4
  | .ok => 0
  | .uninitialized => 1
  | .transportError => 2
  | .transportBusy => 3
  | .transportTimeout => 4
  | .invalidArgument => 5
  | .writeFailed => 6
  | .zeroRecords => 7
  | .illegalCommand => 8

/-- The status an exchange outcome maps to (R14). -/
def TransportOutcome.status : TransportOutcome → Status
  | .ok => .ok
  | .busy => .transportBusy
  | .timeout => .transportTimeout
  | .error => .transportError

/-- A response beat (R86): STATUS, LAST, eleven zero bits, RECORD. -/
def beat (st : Status) (last : Bool) (record : Word) : Beat :=
  st.code ++ BitVec.ofBool last ++ (0 : BitVec 11) ++ record

/-- `emit` of R13: send one beat. -/
def State.emit (s : State) (b : Beat) : State := { s with response := s.response ++ [b] }

/-- Send the final beat of a command and return PHASE to IDLE (R26). -/
def State.finish (s : State) (st : Status) (record : Word) : State :=
  { s with response := s.response ++ [beat st true record], phase := .idle, transport := none }

/-- `raise S` (R13, R200): one final beat with the status and no record; registers and medium keep what earlier steps
wrote. This is all the block does on an error: it has no traps (R205-R207). -/
def State.raise (s : State) (st : Status) : State := s.finish st 0

/-- The answer to an illegal command word (R85): one beat, nothing else. -/
def State.rejectCommand (s : State) : State := s.raise .illegalCommand

/-! ## Cached registers -/

/-- Read COUNT; it holds no value while MODE = UNINIT (R22). -/
def readCount (s : State) : Except Fault Word :=
  match s.mode with
  | .uninit => .error (.holdsNoValue .count)
  | .boot => .ok s.count

/-- Read CURSOR; it holds no value while MODE = UNINIT (R22). -/
def readCursor (s : State) : Except Fault Word :=
  match s.mode with
  | .uninit => .error (.holdsNoValue .cursor)
  | .boot => .ok s.cursor

/-! ## The medium's frames -/

/-- The medium would store a WRITE: the latch is set and it is not write-protected (R65). -/
def State.writable (s : State) : Bool := s.wel && !s.protect

/-- WREN (`v = true`) or WRDI (`v = false`) at the medium (R34, R65). -/
def mediumLatch (v : Bool) (f : Fate) (s : State) : State :=
  match f with
  | .done => { s with wel := v }
  | .lost => s
  | .leaves _ w => { s with wel := w }
  | .delivers _ _ => { s with wel := v }

/-- READ at the medium: the bytes as they stand, no side effect (R65, R66). Only a held medium may deliver others (log 11). -/
def mediumReadAt (P : Params) (a : Word) (n : Nat) (f : Fate) (s : State) : Except Fault Bytes :=
  if a.toNat + n ≤ P.mediumBytes then
    match f with
    | .delivers b0 b1 =>
      .ok (if s.hold then [b0, b1].take n else Mem.readBytes P.eraseValue s.mem a.toNat n)
    | .done => .ok (Mem.readBytes P.eraseValue s.mem a.toNat n)
    | .lost => .ok (Mem.readBytes P.eraseValue s.mem a.toNat n)
    | .leaves _ _ => .ok (Mem.readBytes P.eraseValue s.mem a.toNat n)
  else .error (.beyondMedium (a.toNat + n - 1))

/-- WRITE at the medium (R65): the byte is stored only if the latch is set and the medium is not protected (D27), and
the latch is cleared either way. A failed WRITE leaves any value in the byte it could have stored to. -/
def mediumWriteAt (P : Params) (a : Word) (d : Byte) (f : Fate) (s : State) : Except Fault State :=
  if a.toNat < P.mediumBytes then
    match f with
    | .lost => .ok s
    | .leaves b w =>
      .ok { s with mem := if s.writable then Mem.write P.eraseValue s.mem a.toNat b else s.mem, wel := w }
    | .done =>
      .ok { s with mem := if s.writable then Mem.write P.eraseValue s.mem a.toNat d else s.mem, wel := false }
    | .delivers _ _ =>
      .ok { s with mem := if s.writable then Mem.write P.eraseValue s.mem a.toNat d else s.mem, wel := false }
  else .error (.beyondMedium a.toNat)

/-- What a frame does at the medium, and the bytes it sends back. Only the four frames of R95 have an effect; the
sequencer issues no other (R96). -/
def mediumFrame (P : Params) (i : Instr) (f : Fate) (s : State) : Except Fault (Bytes × State) :=
  match i with
  | .mediumWren => .ok ([], mediumLatch true f s)
  | .mediumWrdi => .ok ([], mediumLatch false f s)
  | .mediumRead a n =>
    match mediumReadAt P a n f s with
    | .error e => .error e
    | .ok rx => .ok (rx, s)
  | .mediumWrite a d =>
    match mediumWriteAt P a d f s with
    | .error e => .error e
    | .ok t => .ok ([], t)
  | .init | .append _ _ _ | .lastRecord | .recordAt _ | .traverseOldest | .traverseNewest => .error .outOfStep
  | .mediumRdsr | .mediumWrsr | .mediumFastRead | .mediumSleep | .mediumRdid => .error .outOfStep

/-- The medium after power is lost while a frame is in progress: the byte of a WRITE holds any value `b`, no other byte
changes (R234, D26). -/
def interruptedFrame (P : Params) (i : Instr) (b : Byte) (s : State) : Except Fault State :=
  match i with
  | .mediumWrite a _ =>
    if a.toNat < P.mediumBytes then .ok { s with mem := Mem.write P.eraseValue s.mem a.toNat b }
    else .error (.beyondMedium a.toNat)
  | .mediumWren | .mediumWrdi | .mediumRead _ _ => .ok s
  | .init | .append _ _ _ | .lastRecord | .recordAt _ | .traverseOldest | .traverseNewest => .ok s
  | .mediumRdsr | .mediumWrsr | .mediumFastRead | .mediumSleep | .mediumRdid => .ok s

/-- What becomes of a frame that another agent sends: R65 while "hold" is inactive, anything while it is active (R35,
log 19). -/
def State.outsideFate (s : State) : Fate := if s.hold then Config.heldFate s.heldFrames else .done

/-- Count a frame that met a held medium. -/
def State.countHeld (s : State) : State :=
  { s with heldFrames := if s.hold then s.heldFrames + 1 else s.heldFrames }

/-- Note an exchange in the record (R19, log 22). -/
def State.note (s : State) (x : Exchange) (o : Option TransportOutcome) (rx : Bytes) : State :=
  { s with exchanges := s.exchanges ++ [{ tx := x.tx, n := x.n, outcome := o, rx := rx }] }

/-- The exchange is over and chip-select is released (R31). -/
def State.release (s : State) : State := { s with transport := none }

/-! ## Reset -/

/-- Power lost and restored (R230, R232): every register of the block and every channel at its reset value, so a request
that waited is gone; the medium's bytes as they stand, its latch any value (R234). What is still to come from outside, and
the model's records, are no part of the block (log 13). -/
def State.powerCycle (s : State) (wel : Bool) : State :=
  { State.reset with
    inbox := s.inbox, answers := s.answers, exchanges := s.exchanges, mem := s.mem, wel := wel,
    protect := s.protect, hold := s.hold, heldFrames := s.heldFrames }

/-! ## Acceptance -/

/-- Accept a command: `PHASE <- RUN(c, 0)` (R30). -/
def State.accept (s : State) (c : Instr) : State := { s with phase := .run c .start }

/-- A request that meets a running command waits in the request channel (R30). -/
def State.defer (s : State) (P : Params) (c : Instr) : State :=
  match encode P c with
  | .command w => { s with requests := s.requests ++ [w] }
  | .exchange x => { s with inbox := .frame x :: s.inbox }

/-- The result of an operation as the outcome of a step. -/
def outcomeOf (r : Except Fault State) : Host.Outcome State Fault Refusal :=
  match r with
  | .ok s => .next s
  | .error e => .fault e

end Sys2Proof.Machine
end

