-- ==== Sys2Proof/Machine/Operands.lean ====
section
/-! DEFINITION. The operand computations: byte order (spec/00_scope.md R15), the record codec (spec/41 R121, R122), slot
addressing and the wrap logic (spec/43 R140-R145), the region map (spec/20 R52). All values are unsigned (R10). -/

namespace Sys2Proof.Machine

/-! ## Byte order -/

/-- `v[15:8]`. -/
def hiByte (v : Word) : Byte := v.extractLsb' 8 8
/-- `v[7:0]`. -/
def loByte (v : Word) : Byte := v.extractLsb' 0 8

/-- `be16` (R15): high byte first. -/
def be16 (v : Word) : Byte × Byte := (hiByte v, loByte v)

/-- `unbe16` (R15). -/
def unbe16 (b0 b1 : Byte) : Word := b0 ++ b1

/-- `meta16` (R15, R58): the two bytes of a metadata value, lower address first. -/
def meta16 (P : Params) (v : Word) : Byte × Byte :=
  if P.metaBigEndian then be16 v else (loByte v, hiByte v)

/-- `unmeta16` (R15). -/
def unmeta16 (P : Params) (b0 b1 : Byte) : Word := if P.metaBigEndian then unbe16 b0 b1 else unbe16 b1 b0

/-! ## The record codec -/

/-- `W = code ++ thread ++ level` (R89). -/
def recordWord (level thread : BitVec 3) (code : BitVec 10) : Word := code ++ thread ++ level

/-- `Enc` (R121): `HI` and `LO`. -/
def enc (level thread : BitVec 3) (code : BitVec 10) : Byte × Byte :=
  (hiByte (recordWord level thread code), loByte (recordWord level thread code))

/-- `Dec` (R122): `level`, `thread`, `code`; total, nothing is rejected (R125). -/
def dec (hi lo : Byte) : BitVec 3 × BitVec 3 × BitVec 10 :=
  (lo.extractLsb' 0 3, lo.extractLsb' 3 3, hi ++ lo.extractLsb' 6 2)

/-- The RECORD field of the beat for the slot bytes `hi`, `lo`: `code ++ thread ++ level` of the decoded record (R126). -/
def decodedRecord (hi lo : Byte) : Word :=
  let (level, thread, code) := dec hi lo
  recordWord level thread code

/-! ## Slots and the wrap logic -/

/-- `Valid(a)` (R144). -/
abbrev ValidSlot (P : Params) (a : Nat) : Prop :=
  P.ringStart ≤ a ∧ a ≤ P.ringLast ∧ (a - P.ringStart) % P.slotBytes = 0

/-- `pos(a)` (R140). -/
def slotPos (P : Params) (a : Nat) : Nat := (a - P.ringStart) / P.slotBytes

/-- `slotAddr(k)` (R140). -/
def slotAddr (P : Params) (k : Nat) : Nat := P.ringStart + P.slotBytes * k

/-- `Next(c)` (R141), for `Valid c`. -/
def nextSlot (P : Params) (c : Nat) : Nat :=
  if P.ringLast < c + P.slotBytes then P.ringStart else c + P.slotBytes

/-- `Prev(c)` (R142), for `Valid c`. -/
def prevSlot (P : Params) (c : Nat) : Nat := if c = P.ringStart then P.ringLast else c - P.slotBytes

/-- `Back(c, k)` (R143): `k` steps of `Prev`. -/
def backSlot (P : Params) (c : Nat) : Nat → Nat
  | 0 => c
  | k + 1 => backSlot P (prevSlot P c) k

/-- The address of `CURSOR` for the wrap functions, which fault on an address that is not `Valid` (R140). -/
def cursorSlot (P : Params) (s : State) : Except Fault Nat :=
  match readCursor s with
  | .error e => .error e
  | .ok c => if ValidSlot P c.toNat then .ok c.toNat else .error (.notValidSlot c.toNat)

/-- `Addr(i) = Back(CURSOR, COUNT - i + 1)` (R145), for `1 <= i <= COUNT`. -/
def logicalAddr (P : Params) (i : Word) (s : State) : Except Fault Nat :=
  match cursorSlot P s with
  | .error e => .error e
  | .ok c =>
    match readCount s with
    | .error e => .error e
    | .ok n => .ok (backSlot P c (n.toNat + 1 - i.toNat))

/-! ## The region map -/

/-- The regions of R52. -/
inductive Region where
  | config
  | metadata
  | ring
  | aboveRing
  deriving DecidableEq, Repr

/-- The region of a medium address (R52); the default regions leave no gap below RING. -/
def regionOf (P : Params) (a : Nat) : Region :=
  if a ≤ P.configLast then .config
  else if a ≤ P.metaLast then .metadata
  else if a ≤ P.ringRegionEnd then .ring
  else .aboveRing

/-- The addresses the block may put in a frame (R56): the two metadata values and the bytes of the slots. -/
abbrev FramedAddr (P : Params) (a : Nat) : Prop :=
  a = P.metaCountAddr ∨ a = P.metaCountAddr + 1 ∨ a = P.metaCursorAddr ∨ a = P.metaCursorAddr + 1 ∨
  (P.ringStart ≤ a ∧ a ≤ P.ringLast + 1)

end Sys2Proof.Machine
end

