-- ==== Sys2Proof/Machine/Flags.lean ====
section
/-! DEFINITION. The status conditions a command checks before its first exchange (spec/60_exceptions.md R201), each
answering the status it raises, if any. The commands make them in the order of R203. The block has no condition-code
flags (spec/10_state.md R28). -/

namespace Sys2Proof.Machine

/-- `UNINITIALIZED`: MODE = UNINIT (R153, R201). -/
def checkMode (s : State) : Option Status :=
  match s.mode with
  | .uninit => some .uninitialized
  | .boot => none

/-- `ZERO_RECORDS`: an empty ring (R150, R151, R201). -/
def checkNotEmpty (n : Word) : Option Status := if n = 0 then some .zeroRecords else none

/-- `INVALID_ARGUMENT` of RECORD_AT: the index is outside `1 .. COUNT` (R151). -/
def checkIndex (n i : Word) : Option Status :=
  if i.toNat < 1 ∨ n.toNat < i.toNat then some .invalidArgument else none

/-- `INVALID_ARGUMENT` of APPEND: the fields are compared at full width with their limits (R82, R147). -/
def checkRecord (P : Params) (level thread : Byte) (code : Word) : Option Status :=
  if P.levelLimit ≤ level.toNat ∨ P.threadLimit ≤ thread.toNat ∨ P.codeLimit ≤ code.toNat then
    some .invalidArgument
  else none

/-- The saturating add of R148, computed without 16-bit overflow. -/
def saturatingCount (P : Params) (n : Word) : Word := BitVec.ofNat 16 (min (n.toNat + 1) P.capacity)

/-- INIT's judgement of the counter (R172). -/
abbrev LegalCount (P : Params) (n : Word) : Prop := n.toNat ≤ P.capacity

/-- INIT's judgement of the cursor (R173). -/
abbrev LegalCursor (P : Params) (c : Word) : Prop := ValidSlot P c.toNat

/-- The read-back comparator (R132): all eight bits. -/
def verified (rb written : Byte) : Bool := rb == written

end Sys2Proof.Machine
end

