-- ==== Sys2Proof/Machine/Commit.lean ====
section
/-! DEFINITION. The commit controller: which exchange each step of a command issues, the write gate (spec/40 R111-R114),
the read (spec/42 R130) and write-and-verify (R131-R134), as steps of the sequencer. -/

namespace Sys2Proof.Machine

/-- Address and two bytes of a `WriteVerify` call (R147, R171): where, lower byte, higher byte. -/
def jobTarget (P : Params) (job : WriteJob) (s : State) : Except Fault (Nat × Byte × Byte) :=
  match job with
  | .payload =>
    match readCursor s with
    | .error e => .error e
    | .ok c => .ok (c.toNat, s.hi, s.lo)
  | .newCount => .ok (P.metaCountAddr, meta16 P s.newCount)
  | .newCursor => .ok (P.metaCursorAddr, meta16 P s.newCursor)
  | .fixCount => .ok (P.metaCountAddr, meta16 P 0)
  | .fixCursor => .ok (P.metaCursorAddr, meta16 P (BitVec.ofNat 16 P.ringStart))

/-- `bytes[J]` of R131, with two bytes (`m = 2`). -/
def byteAt (j : Byte) (b0 b1 : Byte) : Byte := if j = 0 then b0 else b1

/-- The exchange of a step of `WriteVerify` (R131, R111). -/
def writeExchange (P : Params) (job : WriteJob) (g : GateStep) (s : State) : Except Fault Exchange :=
  match jobTarget P job s with
  | .error e => .error e
  | .ok (a, b0, b1) =>
    match g with
    | .wren => .ok (oneByteFrame P.opcodes.wren)
    | .write => .ok (writeFrame P (BitVec.ofNat 16 (a + s.j.toNat)) (byteAt s.j b0 b1))
    | .wrdi _ => .ok (oneByteFrame P.opcodes.wrdi)
    | .readBack => .ok (readFrame P (BitVec.ofNat 16 (a + s.j.toNat)) 1)

/-- The slot a record read addresses: `Prev(CURSOR)` (R150), `Addr(i)` (R151), `Addr(I)` (R190, R191). -/
def recordAddr (P : Params) (c : Instr) (s : State) : Except Fault Nat :=
  match c with
  | .lastRecord =>
    match cursorSlot P s with
    | .error e => .error e
    | .ok a => .ok (prevSlot P a)
  | .recordAt i => logicalAddr P i s
  | .traverseOldest => logicalAddr P s.i s
  | .traverseNewest => logicalAddr P s.i s
  | .init | .append _ _ _ => .error .outOfStep
  | .mediumWren | .mediumWrdi | .mediumRead _ _ | .mediumWrite _ _ => .error .outOfStep
  | .mediumRdsr | .mediumWrsr | .mediumFastRead | .mediumSleep | .mediumRdid => .error .outOfStep

/-- The exchange step `k` of command `c` issues. -/
def exchangeAt (P : Params) (c : Instr) (k : Position) (s : State) : Except Fault Exchange :=
  match k with
  | .start => .error .outOfStep
  | .readCount => .ok (readFrame P (BitVec.ofNat 16 P.metaCountAddr) 2)
  | .readCursor => .ok (readFrame P (BitVec.ofNat 16 P.metaCursorAddr) 2)
  | .write job g => writeExchange P job g s
  | .readRecord =>
    match recordAddr P c s with
    | .error e => .error e
    | .ok a => .ok (readFrame P (BitVec.ofNat 16 a) 2)

/-- Go to step `k` of command `c` and put its exchange on the transport channel. -/
def issue (P : Params) (c : Instr) (k : Position) (s : State) : Except Fault State :=
  match exchangeAt P c k s with
  | .error e => .error e
  | .ok x => .ok { s with phase := .run c k, transport := some x }

/-- Begin a `WriteVerify`: `J <- 0`, then the WREN of byte 0 (R131). -/
def startWrite (P : Params) (c : Instr) (job : WriteJob) (s : State) : Except Fault State :=
  issue P c (.write job .wren) { s with j := 0 }

/-- What the gate does after one of its exchanges (R111, R112, R113). -/
inductive GateNext where
  /-- The next exchange of the window, or the read-back once the window has closed with OK. -/
  | goTo (g : GateStep)
  /-- The window has closed with this status. -/
  | fails (st : Status)
  deriving DecidableEq, Repr

/-- The gate after the exchange of step `g` ended with `st`. A WREN failure skips the WRITE and still sends WRDI, whose
outcome is then ignored (R112); otherwise the first failure in time is the gate's status (R113). -/
def gateNext (g : GateStep) (st : Status) : GateNext :=
  match g with
  | .wren => if st = .ok then .goTo .write else .goTo (.wrdi st)
  | .write => .goTo (.wrdi st)
  | .wrdi r => if r ≠ .ok then .fails r else if st ≠ .ok then .fails st else .goTo .readBack
  | .readBack => .fails st

end Sys2Proof.Machine
end

