-- ==== Sys2Proof/Machine/Bootstrap.lean ====
section
/-! DEFINITION. INIT (spec/44_bootstrap.md R171): the states of R175 as the steps between its exchanges. -/

namespace Sys2Proof.Machine

/-- B_RD_CNT of R175: `MODE <- UNINIT` on entry (R178), then the read of `count`. -/
def startInit (P : Params) (s : State) : Except Fault State := issue P .init .readCount { s with mode := .uninit }

/-- B_COMMIT of R175 (R174): the registers take the checked values and the block is bootstrapped. -/
def commitBootstrap (s : State) : State :=
  { s with count := s.cnt0, cursor := s.cur0, mode := .boot }.finish .ok 0

/-- B_CHK_CUR of R175 (R173). -/
def checkCursorValue (P : Params) (s : State) : Except Fault State :=
  if LegalCursor P s.cur0 then .ok (commitBootstrap s) else startWrite P .init .fixCursor s

/-- B_CHK_CNT of R175 (R172). -/
def checkCountValue (P : Params) (s : State) : Except Fault State :=
  if LegalCount P s.cnt0 then checkCursorValue P s else startWrite P .init .fixCount s

/-- The read of `count` succeeded: `CNT0 <- unmeta16(rx)`, then B_RD_CUR. -/
def gotCount (P : Params) (b0 b1 : Byte) (s : State) : Except Fault State :=
  issue P .init .readCursor { s with cnt0 := unmeta16 P b0 b1 }

/-- The read of `writeCursor` succeeded: `CUR0 <- unmeta16(rx)`, then B_CHK_CNT. -/
def gotCursor (P : Params) (b0 b1 : Byte) (s : State) : Except Fault State :=
  checkCountValue P { s with cur0 := unmeta16 P b0 b1 }

/-- The counter repair verified (B_FIX_CNT of R175). -/
def fixedCount (P : Params) (s : State) : Except Fault State := checkCursorValue P { s with cnt0 := 0 }

/-- The cursor repair verified (B_FIX_CUR of R175). -/
def fixedCursor (P : Params) (s : State) : State := commitBootstrap { s with cur0 := BitVec.ofNat 16 P.ringStart }

end Sys2Proof.Machine
end

