-- ==== Sys2Proof/Machine/Ring.lean ====
section
/-! DEFINITION. The ring commands (spec/43_ring_manager.md): APPEND (R147-R149), LAST_RECORD (R150), RECORD_AT (R151),
as the steps before and after their exchanges. -/

namespace Sys2Proof.Machine

/-- APPEND up to its first exchange (R147): mode, arguments, encoding, then the payload write. -/
def startAppend (P : Params) (level thread : Byte) (code : Word) (s : State) : Except Fault State :=
  match checkMode s with
  | some st => .ok (s.raise st)
  | none =>
    match checkRecord P level thread code with
    | some st => .ok (s.raise st)
    | none =>
      let (hi, lo) := enc (level.setWidth 3) (thread.setWidth 3) (code.setWidth 10)
      startWrite P (.append level thread code) .payload { s with hi := hi, lo := lo }

/-- The payload verified: `NEWCOUNT <- min(COUNT + 1, CAPACITY)`, written even when unchanged (D23). -/
def wrotePayload (P : Params) (c : Instr) (s : State) : Except Fault State :=
  match readCount s with
  | .error e => .error e
  | .ok n => startWrite P c .newCount { s with newCount := saturatingCount P n }

/-- The count verified: `COUNT <- NEWCOUNT` (R149), `NEWCURSOR <- Next(CURSOR)`. -/
def wroteCount (P : Params) (c : Instr) (s : State) : Except Fault State :=
  match cursorSlot P s with
  | .error e => .error e
  | .ok a =>
    startWrite P c .newCursor { s with count := s.newCount, newCursor := BitVec.ofNat 16 (nextSlot P a) }

/-- The cursor verified: `CURSOR <- NEWCURSOR` (R149), final beat. -/
def wroteCursor (s : State) : State := { s with cursor := s.newCursor }.finish .ok 0

/-- LAST_RECORD up to its exchange (R150). -/
def startLastRecord (P : Params) (s : State) : Except Fault State :=
  match checkMode s with
  | some st => .ok (s.raise st)
  | none =>
    match readCount s with
    | .error e => .error e
    | .ok n =>
      match checkNotEmpty n with
      | some st => .ok (s.raise st)
      | none => issue P .lastRecord .readRecord s

/-- RECORD_AT up to its exchange (R151): the empty ring is judged before the index. -/
def startRecordAt (P : Params) (i : Word) (s : State) : Except Fault State :=
  match checkMode s with
  | some st => .ok (s.raise st)
  | none =>
    match readCount s with
    | .error e => .error e
    | .ok n =>
      match checkNotEmpty n with
      | some st => .ok (s.raise st)
      | none =>
        match checkIndex n i with
        | some st => .ok (s.raise st)
        | none => issue P (.recordAt i) .readRecord s

/-- The slot's bytes arrived: one final beat with the decoded record (R150, R151). -/
def gotRecord (b0 b1 : Byte) (s : State) : State := s.finish .ok (decodedRecord b0 b1)

end Sys2Proof.Machine
end

