-- ==== Sys2Proof/Machine/Traversal.lean ====
section
/-! DEFINITION. TRAVERSE_OLDEST and TRAVERSE_NEWEST (spec/45_traversal.md R190, R191). -/

namespace Sys2Proof.Machine

/-- TRAVERSE_OLDEST up to its first exchange: the loop starts at `I = 1`, and does not run when `COUNT = 0` (R193). -/
def startTraverseOldest (P : Params) (s : State) : Except Fault State :=
  match checkMode s with
  | some st => .ok (s.raise st)
  | none =>
    match readCount s with
    | .error e => .error e
    | .ok n => if n = 0 then .ok (s.finish .ok 0) else issue P .traverseOldest .readRecord { s with i := 1 }

/-- TRAVERSE_NEWEST up to its first exchange: the loop starts at `I = COUNT` (R191). -/
def startTraverseNewest (P : Params) (s : State) : Except Fault State :=
  match checkMode s with
  | some st => .ok (s.raise st)
  | none =>
    match readCount s with
    | .error e => .error e
    | .ok n => if n = 0 then .ok (s.finish .ok 0) else issue P .traverseNewest .readRecord { s with i := n }

/-- A slot's bytes arrived in TRAVERSE_OLDEST: a record beat, then the next index up to COUNT (R190). -/
def gotOldest (P : Params) (b0 b1 : Byte) (s : State) : Except Fault State :=
  match readCount s with
  | .error e => .error e
  | .ok n =>
    let t := s.emit (beat .ok false (decodedRecord b0 b1))
    if s.i.toNat < n.toNat then issue P .traverseOldest .readRecord { t with i := s.i + 1 } else .ok (t.finish .ok 0)

/-- A slot's bytes arrived in TRAVERSE_NEWEST: a record beat, then the next index down to 1 (R191). -/
def gotNewest (P : Params) (b0 b1 : Byte) (s : State) : Except Fault State :=
  let t := s.emit (beat .ok false (decodedRecord b0 b1))
  if 1 < s.i.toNat then issue P .traverseNewest .readRecord { t with i := s.i - 1 } else .ok (t.finish .ok 0)

end Sys2Proof.Machine
end

