-- ==== Sys2Proof/Machine/Sequencer.lean ====
section
/-! DEFINITION. The command sequencer (spec/10_state.md R25, R26, R30): what follows each exchange, the exchange itself,
and running a command for as long as the transport answers. -/

namespace Sys2Proof.Machine

/-- A `WriteVerify` returned OK: the next step of the command that called it (R147, R171). -/
def afterJob (P : Params) (c : Instr) (job : WriteJob) (s : State) : Except Fault State :=
  match job with
  | .payload => wrotePayload P c s
  | .newCount => wroteCount P c s
  | .newCursor => .ok (wroteCursor s)
  | .fixCount => fixedCount P s
  | .fixCursor => .ok (fixedCursor P s)

/-- The read-back of byte `J` arrived: the comparator, then the next byte or the end of the `WriteVerify` (R131-R133). -/
def afterReadBack (P : Params) (c : Instr) (job : WriteJob) (b : Byte) (s : State) : Except Fault State :=
  match jobTarget P job s with
  | .error e => .error e
  | .ok (_, b0, b1) =>
    let t := { s with rb := b }
    if verified b (byteAt s.j b0 b1) then
      if s.j = 0 then issue P c (.write job .wren) { t with j := 1 } else afterJob P c job t
    else .ok (t.raise .writeFailed)

/-- A record's two bytes arrived (R150, R151, R190, R191). -/
def afterRecord (P : Params) (c : Instr) (b0 b1 : Byte) (s : State) : Except Fault State :=
  match c with
  | .lastRecord => .ok (gotRecord b0 b1 s)
  | .recordAt _ => .ok (gotRecord b0 b1 s)
  | .traverseOldest => gotOldest P b0 b1 s
  | .traverseNewest => gotNewest P b0 b1 s
  | .init | .append _ _ _ => .error .outOfStep
  | .mediumWren | .mediumWrdi | .mediumRead _ _ | .mediumWrite _ _ => .error .outOfStep
  | .mediumRdsr | .mediumWrsr | .mediumFastRead | .mediumSleep | .mediumRdid => .error .outOfStep

/-- `ReadBytes(A, 2)` (R130): raise a transport status, or go on with the two bytes. -/
def afterRead2 (st : Status) (rx : Bytes) (s : State) (f : Byte → Byte → State → Except Fault State) :
    Except Fault State :=
  if st ≠ .ok then .ok (s.raise st)
  else
    match rx with
    | [b0, b1] => f b0 b1 s
    | _ => .error .outOfStep

/-- The step of command `c` after the exchange of step `k` ended with status `st` and bytes `rx`. -/
def afterExchange (P : Params) (c : Instr) (k : Position) (st : Status) (rx : Bytes) (s : State) :
    Except Fault State :=
  match k with
  | .start => .error .outOfStep
  | .readCount => afterRead2 st rx s (gotCount P)
  | .readCursor => afterRead2 st rx s (gotCursor P)
  | .readRecord => afterRead2 st rx s (afterRecord P c)
  | .write job .readBack =>
    if st ≠ .ok then .ok (s.raise st)
    else
      match rx with
      | [b] => afterReadBack P c job b s
      | _ => .error .outOfStep
  | .write job g =>
    match gateNext g st with
    | .goTo g' => issue P c (.write job g') s
    | .fails st' => .ok (s.raise st')

/-- One exchange of the block (R12, R31): the frame in progress meets the answer `a`. The medium does what its fate says
and the block goes on with the outcome; or power is lost and the block is reset (R232, R234). -/
def completeExchange (P : Params) (c : Instr) (k : Position) (a : Answer) (s : State) : Except Fault State :=
  match s.transport with
  | none => .error .outOfStep
  | some x =>
    match decodeFrame P x with
    | .error _ => .error .outOfStep
    | .ok i =>
      match a with
      | .powerLoss b wel =>
        match interruptedFrame P i b s with
        | .error e => .error e
        | .ok t => .ok ((t.note x none []).powerCycle wel)
      | .returns o f =>
        match mediumFrame P i f s with
        | .error e => .error e
        | .ok (rx, t) =>
          let got := if o = .ok then rx else []
          afterExchange P c k o.status got (t.note x (some o) got).release

/-- Run the command in progress, one exchange per answer, until its final beat or until no answer is left (R26). -/
def runAnswers (P : Params) : List Answer → State → Except Fault State
  | [], s => .ok s
  | a :: rest, s =>
    match s.phase with
    | .idle => .ok s
    | .run c k =>
      match completeExchange P c k a { s with answers := rest } with
      | .error e => .error e
      | .ok t => runAnswers P rest t

/-- The steps of a command before its first exchange. -/
def beginCommand (P : Params) (c : Instr) (s : State) : Except Fault State :=
  match c with
  | .init => startInit P s
  | .append level thread code => startAppend P level thread code s
  | .lastRecord => startLastRecord P s
  | .recordAt i => startRecordAt P i s
  | .traverseOldest => startTraverseOldest P s
  | .traverseNewest => startTraverseNewest P s
  | .mediumWren | .mediumWrdi | .mediumRead _ _ | .mediumWrite _ _ => .error .outOfStep
  | .mediumRdsr | .mediumWrsr | .mediumFastRead | .mediumSleep | .mediumRdid => .error .outOfStep

/-- Go on with the command in progress as far as the transport's answers reach; with none left the block waits in
PHASE = RUN(c, k), its exchange in progress (R31, log 9). -/
def proceed (P : Params) (s : State) : Except Fault State :=
  match s.phase with
  | .idle => .ok s
  | .run c .start =>
    match beginCommand P c s with
    | .error e => .error e
    | .ok t => runAnswers P t.answers t
  | .run _ _ => runAnswers P s.answers s

/-- Accept a command in IDLE and perform it; while another runs the request waits (R30). -/
def launch (P : Params) (c : Instr) (s : State) : Host.Outcome State Fault Refusal :=
  match s.phase with
  | .idle => outcomeOf (proceed P (s.accept c))
  | .run _ _ => .next (s.defer P c)

end Sys2Proof.Machine
end

