-- ==== Sys2Proof/Machine/Commands.lean ====
section
/-! DEFINITION. The meanings of the six host commands, under the default parameters. Each is the command's own entry to
the sequencer; its steps stand in Bootstrap, Ring and Traversal. -/

namespace Sys2Proof.Machine

/-- INIT (spec/44 R171): steps from `startInit`. -/
def execInit (s : State) : Host.Outcome State Fault Refusal := launch Config.params .init s

/-- APPEND (spec/43 R147): steps from `startAppend`. -/
def execAppend (level thread : Byte) (code : Word) (s : State) : Host.Outcome State Fault Refusal :=
  launch Config.params (.append level thread code) s

/-- LAST_RECORD (spec/43 R150): steps from `startLastRecord`. -/
def execLastRecord (s : State) : Host.Outcome State Fault Refusal := launch Config.params .lastRecord s

/-- RECORD_AT (spec/43 R151): steps from `startRecordAt`. -/
def execRecordAt (i : Word) (s : State) : Host.Outcome State Fault Refusal := launch Config.params (.recordAt i) s

/-- TRAVERSE_OLDEST (spec/45 R190): steps from `startTraverseOldest`. -/
def execTraverseOldest (s : State) : Host.Outcome State Fault Refusal := launch Config.params .traverseOldest s

/-- TRAVERSE_NEWEST (spec/45 R191): steps from `startTraverseNewest`. -/
def execTraverseNewest (s : State) : Host.Outcome State Fault Refusal := launch Config.params .traverseNewest s

end Sys2Proof.Machine
end

