-- ==== Sys2Proof/Machine/Frames.lean ====
section
/-! DEFINITION. The meanings of the medium frames as the medium carries them out (spec/20_memory.md R65), under the
default parameters. The block's own exchanges go through the same `mediumFrame` (Sequencer); a frame executed on its own
is one another agent of the medium sends (log 17). -/

namespace Sys2Proof.Machine

/-- A frame carried out by the medium, and noted in the record. At a held medium it goes on too, with a free effect
(log 19). -/
def carryOut (P : Params) (i : Instr) (s : State) : Host.Outcome State Fault Refusal :=
  match encode P i with
  | .command _ => .fault .outOfStep
  | .exchange x =>
    match mediumFrame P i s.outsideFate s with
    | .error e => .fault e
    | .ok (rx, t) => .next (t.countHeld.note x (some .ok) rx)

/-- MEDIUM_WREN: sets WEL (R34, R65). -/
def execMediumWren (s : State) : Host.Outcome State Fault Refusal := carryOut Config.params .mediumWren s

/-- MEDIUM_WRDI: clears WEL (R34, R65). -/
def execMediumWrdi (s : State) : Host.Outcome State Fault Refusal := carryOut Config.params .mediumWrdi s

/-- MEDIUM_READ: sends the bytes at `addr, addr+1, …`, no side effect (R51, R65). -/
def execMediumRead (addr : Word) (n : Nat) (s : State) : Host.Outcome State Fault Refusal :=
  carryOut Config.params (.mediumRead addr n) s

/-- MEDIUM_WRITE: stores its byte if WEL is set and the medium is not protected, and clears WEL (R34, R65). -/
def execMediumWrite (addr : Word) (d : Byte) (s : State) : Host.Outcome State Fault Refusal :=
  carryOut Config.params (.mediumWrite addr d) s

/-- MEDIUM_RDSR: listed, never issued, no effect given (R97, R213). -/
def execMediumRdsr (_s : State) : Host.Outcome State Fault Refusal := .refused (.mediumEffectNotGiven "MEDIUM_RDSR")

/-- MEDIUM_WRSR: listed, never issued, no effect given (R97, R213). -/
def execMediumWrsr (_s : State) : Host.Outcome State Fault Refusal := .refused (.mediumEffectNotGiven "MEDIUM_WRSR")

/-- MEDIUM_FAST_READ: listed, never issued, no effect given (R97, R213). -/
def execMediumFastRead (_s : State) : Host.Outcome State Fault Refusal :=
  .refused (.mediumEffectNotGiven "MEDIUM_FAST_READ")

/-- MEDIUM_SLEEP: listed, never issued, no effect given (R97, R213, R216). -/
def execMediumSleep (_s : State) : Host.Outcome State Fault Refusal := .refused (.mediumEffectNotGiven "MEDIUM_SLEEP")

/-- MEDIUM_RDID: listed, never issued, no effect given (R97, R213). -/
def execMediumRdid (_s : State) : Host.Outcome State Fault Refusal := .refused (.mediumEffectNotGiven "MEDIUM_RDID")

end Sys2Proof.Machine
end

