-- ==== Sys2Proof/Machine/Dispatch.lean ====
section
/-! DEFINITION. The dispatcher: one arm per row of the opcode table. -/

namespace Sys2Proof.Machine

def exec (i : Instr) (s : State) : Host.Outcome State Fault Refusal :=
  match i with
  | .init => Sys2Proof.Machine.execInit s
  | .append level thread code => Sys2Proof.Machine.execAppend level thread code s
  | .lastRecord => Sys2Proof.Machine.execLastRecord s
  | .recordAt logicalIndex => Sys2Proof.Machine.execRecordAt logicalIndex s
  | .traverseOldest => Sys2Proof.Machine.execTraverseOldest s
  | .traverseNewest => Sys2Proof.Machine.execTraverseNewest s
  | .mediumWren => Sys2Proof.Machine.execMediumWren s
  | .mediumWrdi => Sys2Proof.Machine.execMediumWrdi s
  | .mediumRead addr n => Sys2Proof.Machine.execMediumRead addr n s
  | .mediumWrite addr d => Sys2Proof.Machine.execMediumWrite addr d s
  | .mediumRdsr => Sys2Proof.Machine.execMediumRdsr s
  | .mediumWrsr => Sys2Proof.Machine.execMediumWrsr s
  | .mediumFastRead => Sys2Proof.Machine.execMediumFastRead s
  | .mediumSleep => Sys2Proof.Machine.execMediumSleep s
  | .mediumRdid => Sys2Proof.Machine.execMediumRdid s

end Sys2Proof.Machine
end

