-- ==== Sys2Proof/Machine/Fetch.lean ====
section
/-! DEFINITION. Where the next instruction comes from: the request channel, else the head of the inbox, while the block is idle
(spec/10_state.md R30), and the outside events that are no instruction. -/

namespace Sys2Proof.Machine

/-- What a step finds to do. -/
inductive Fetched where
  /-- An instruction, and the state with its word taken. -/
  | instr (i : Instr) (s : State)
  /-- Something that is no instruction, and what becomes of it. -/
  | other (o : Host.Outcome State Fault Refusal)

/-- The arrival `a`, already taken from its channel. -/
def arrive (P : Params) (a : Arrival) (s : State) : Fetched :=
  match a with
  | .command w =>
    match decodeCommand w with
    | .ok i => .instr i s
    | .error _ => .other (.next s.rejectCommand)
  | .frame x =>
    match decodeFrame P x with
    | .ok i => .instr i s
    | .error r => .other (.refused (.notAFrame r))
  | .externalByte a b =>
    if a < P.mediumBytes then .other (.next { s with mem := Mem.write P.eraseValue s.mem a b })
    else .other (.fault (.beyondMedium a))
  | .pins protect hold => .other (.next { s with protect := protect, hold := hold })
  | .powerCycle wel => .other (.next (s.powerCycle wel))

/-- A running command goes on (R30, R211: nothing else reaches the machine meanwhile); an idle block takes the request
that waits, else the next arrival, or waits itself. -/
def fetch (P : Params) (s : State) : Fetched :=
  match s.phase with
  | .run _ _ => .other (outcomeOf (proceed P s))
  | .idle =>
    match s.requests with
    | w :: rest => arrive P (.command w) { s with requests := rest }
    | [] =>
      match s.inbox with
      | [] => .other (.next s)
      | a :: rest => arrive P a { s with inbox := rest }

/-- An idle block with no exchange in progress: a running command is taken away with its exchange, since the block
fetches only in IDLE (log 15). -/
def State.idled (s : State) : State :=
  match s.phase with
  | .idle => s
  | .run _ _ => { s with phase := .idle, transport := none }

/-- Put what carries an instruction where an idle block fetches next: a command word at the head of the request channel;
a frame at the head of the inbox, with no request before it (log 15). -/
def placeWire (w : Wire) (s : State) : State :=
  match w with
  | .command w => { s.idled with requests := w :: s.requests }
  | .exchange x => { s.idled with requests := [], inbox := .frame x :: s.inbox }

end Sys2Proof.Machine
end

