-- ==== Sys2Proof/Machine/Step.lean ====
section
/-! DEFINITION. One step: an idle block takes the next arrival, and a command is performed as far as the transport's
answers reach (log 9). -/

namespace Sys2Proof.Machine

/-- One step of the machine. -/
def step (s : State) : Host.Outcome State Fault Refusal :=
  match fetch Config.params s with
  | .instr i t => exec i t
  | .other o => o

/-- `s` with the table word `w` of `nbits` bits as the next thing an idle block fetches. -/
def State.withFetchWord (s : State) (nbits w : Nat) : State := placeWire (tableWire Config.params nbits w) s

end Sys2Proof.Machine
end

