-- ==== Sys2Proof/Safety.lean ====
section
/-! DEFINITION. What counts as a safe state and a safe run: the invariant of spec/10_state.md R24 extended to the states
inside a command, and the terms the statements use for the inputs, the record and the slots. -/

namespace Sys2Proof.Machine

/-! ## The invariant -/

/-- R24: the registers every ring command relies on. -/
abbrev RingReady (P : Params) (s : State) : Prop :=
  s.mode = .boot ∧ s.count.toNat ≤ P.capacity ∧ ValidSlot P s.cursor.toNat

/-- `J` numbers a byte of a two-byte write (R131). -/
abbrev ByteIndexOk (s : State) : Prop := s.j = 0 ∨ s.j = 1

/-- What step `k` of INIT relies on (R171, R174): MODE is UNINIT, and a counter already judged is legal. -/
abbrev InitReady (P : Params) (k : Position) (s : State) : Prop :=
  s.mode = .uninit ∧
  match k with
  | .readCount => True
  | .readCursor => True
  | .write .fixCount _ => ByteIndexOk s
  | .write .fixCursor _ => ByteIndexOk s ∧ LegalCount P s.cnt0
  | _ => False

/-- What step `k` of APPEND relies on (R147-R149): the new register values are legal before they are written. -/
abbrev AppendReady (P : Params) (k : Position) (s : State) : Prop :=
  RingReady P s ∧
  match k with
  | .write .payload _ => ByteIndexOk s
  | .write .newCount _ => ByteIndexOk s ∧ s.newCount.toNat ≤ P.capacity
  | .write .newCursor _ => ByteIndexOk s ∧ ValidSlot P s.newCursor.toNat
  | _ => False

/-- What a record read relies on (R150, R151, R190): the logical index is in `1 .. COUNT`. -/
abbrev ReadReady (P : Params) (k : Position) (i : Nat) (s : State) : Prop :=
  RingReady P s ∧ k = .readRecord ∧ 1 ≤ i ∧ i ≤ s.count.toNat

/-- What step `k` of command `c` relies on. A medium frame is no command of the block. -/
abbrev CommandReady (P : Params) (c : Instr) (k : Position) (s : State) : Prop :=
  match c with
  | .init => InitReady P k s
  | .append _ _ _ => AppendReady P k s
  | .lastRecord => ReadReady P k 1 s
  | .recordAt i => ReadReady P k i.toNat s
  | .traverseOldest => ReadReady P k s.i.toNat s
  | .traverseNewest => ReadReady P k s.i.toNat s
  | .mediumWren | .mediumWrdi | .mediumRead _ _ | .mediumWrite _ _ => False
  | .mediumRdsr | .mediumWrsr | .mediumFastRead | .mediumSleep | .mediumRdid => False

/-- The block's part of the invariant. Idle: no exchange in progress, and R24. Running: what the step relies on, and its
own exchange is the one in progress (R31). -/
abbrev BlockOk (P : Params) (s : State) : Prop :=
  match s.phase with
  | .idle => s.transport = none ∧ (s.mode = .boot → RingReady P s)
  | .run c k => CommandReady P c k s ∧ s.transport ≠ none ∧ (exchangeAt P c k s).toOption = s.transport

/-- The medium's part: the content is in canonical form and inside the medium (R33, R50). -/
abbrev MediumOk (P : Params) (s : State) : Prop :=
  Mem.wf P.eraseValue s.mem = true ∧ Mem.within P.mediumBytes s.mem = true

/-- The invariant that every step keeps. -/
abbrev Inv (P : Params) (s : State) : Prop := MediumOk P s ∧ BlockOk P s

/-! ## Inputs -/

/-- An exchange that the transport reports `ok` and the medium carries out as R65 says. -/
def Answer.good : Answer := .returns .ok .done

/-- `n` good exchanges, then `rest`. -/
def goodThen (n : Nat) (rest : List Answer) : List Answer := List.replicate n Answer.good ++ rest

/-- The answer is no loss of power. -/
def Answer.powered : Answer → Bool
  | .returns _ _ => true
  | .powerLoss _ _ => false

/-- No coming exchange loses power. -/
def State.powered (s : State) : Bool := s.answers.all Answer.powered

/-- The answer does not make a READ of a held medium deliver other bytes than the medium's (log 11). -/
def Answer.faithful : Answer → Bool
  | .returns _ (.delivers _ _) => false
  | .returns _ .done => true
  | .returns _ .lost => true
  | .returns _ (.leaves _ _) => true
  | .powerLoss _ _ => true

/-- Every coming READ that succeeds delivers the medium's bytes even while "hold" is active. -/
def State.faithful (s : State) : Bool := s.answers.all Answer.faithful

/-- The request an idle block takes next: the one that waits, or the one the host sends (R30). -/
def State.nextRequest (s : State) : Option CommandWord :=
  match s.requests with
  | w :: _ => some w
  | [] =>
    match s.inbox with
    | .command w :: _ => some w
    | _ => none

/-- The next step is another agent's frame at the medium. -/
def State.frameInHand (s : State) : Bool :=
  match s.phase, s.requests, s.inbox with
  | .idle, [], .frame _ :: _ => true
  | _, _, _ => false

/-- The byte of the medium at `a`, under the default parameters. -/
def State.byte (s : State) (a : Nat) : Byte := Mem.read Config.params.eraseValue s.mem a

/-- `unmeta16` of the two bytes at `a` (R54, R58). -/
def State.metaValue (s : State) (a : Nat) : Word := unmeta16 Config.params (s.byte a) (s.byte (a + 1))

/-- The 16-bit word `HI ++ LO` of the slot at `a` (R57, R126). -/
def State.slotWord (s : State) (a : Nat) : Word := s.byte a ++ s.byte (a + 1)

/-- The slot `Addr(i)` of the default parameters (R145). -/
def State.slotOf (s : State) (i : Nat) : Nat := backSlot Config.params s.cursor.toNat (s.count.toNat + 1 - i)

/-! ## The exchange record -/

/-- The record of a completed exchange. -/
def completed (x : Exchange) (o : TransportOutcome) (rx : Bytes) : ExchangeRecord :=
  { tx := x.tx, n := x.n, outcome := some o, rx := rx }

/-- The eight exchanges of a `WriteVerify` of `b0`, `b1` at `a` in which nothing fails (R131, R135). -/
def writeVerifyRecord (P : Params) (a : Word) (b0 b1 : Byte) : List ExchangeRecord :=
  [completed (oneByteFrame P.opcodes.wren) .ok [], completed (writeFrame P a b0) .ok [],
   completed (oneByteFrame P.opcodes.wrdi) .ok [], completed (readFrame P a 1) .ok [b0],
   completed (oneByteFrame P.opcodes.wren) .ok [], completed (writeFrame P (a + 1) b1) .ok [],
   completed (oneByteFrame P.opcodes.wrdi) .ok [], completed (readFrame P (a + 1) 1) .ok [b1]]

/-- The exchange of a two-byte read in which nothing fails (R130). -/
def readRecordOf (P : Params) (s : State) (a : Nat) : ExchangeRecord :=
  completed (readFrame P (BitVec.ofNat 16 a) 2) .ok [s.byte a, s.byte (a + 1)]

/-- The record's first byte is this opcode. -/
def ExchangeRecord.isOp (r : ExchangeRecord) (op : Byte) : Bool := r.tx.head? == some op

/-- Where the block stands with respect to the write gate (R111). -/
inductive Window where
  /-- Outside a window: the last gate frame sent was a WRDI, or none was. -/
  | closed
  /-- The WREN was ok: the WRITE comes next. -/
  | armed
  /-- The WRITE is through, or the WREN failed: the WRDI comes next. -/
  | closing
  deriving DecidableEq, Repr

/-- The window after one exchange, `none` where the gate does not allow it: a WRITE only directly after a WREN that was
ok, then a WRDI; a WRDI directly after a WREN that failed (R110-R113). An exchange cut off by a loss of power closes the
window with the reset (R232). -/
def Window.after (P : Params) (w : Window) (r : ExchangeRecord) : Option Window :=
  match w with
  | .closed =>
    if r.isOp P.opcodes.write || r.isOp P.opcodes.wrdi then none
    else if r.isOp P.opcodes.wren then
      match r.outcome with
      | some .ok => some .armed
      | some _ => some .closing
      | none => some .closed
    else some .closed
  | .armed =>
    if r.isOp P.opcodes.write then
      match r.outcome with
      | some _ => some .closing
      | none => some .closed
    else none
  | .closing => if r.isOp P.opcodes.wrdi then some .closed else none

/-- The window after a list of exchanges, oldest first. -/
def Window.afterAll (P : Params) (w : Window) : List ExchangeRecord → Option Window
  | [] => some w
  | r :: rest =>
    match w.after P r with
    | none => none
    | some w' => Window.afterAll P w' rest

/-- The window that a position of the sequencer stands in. -/
def windowOf : Phase → Window
  | .run _ (.write _ .write) => .armed
  | .run _ (.write _ (.wrdi _)) => .closing
  | _ => .closed

/-- An exchange the block may issue (R56, R63, R96): WREN, WRDI, a READ of one or two bytes or a WRITE of one, at an
address the block may name. -/
def blockExchange (P : Params) (r : ExchangeRecord) : Prop :=
  match decodeFrame P { tx := r.tx, n := r.n } with
  | .ok .mediumWren => True
  | .ok .mediumWrdi => True
  | .ok (.mediumRead a n) => FramedAddr P a.toNat ∧ FramedAddr P (a.toNat + n - 1)
  | .ok (.mediumWrite a _) => FramedAddr P a.toNat
  | _ => False

/-! ## Commands -/

/-- A command word is illegal in the sense of R85: its `OP` is not one of the six of R81, or `RSV` is not zero, or a
field that R83 or R84 says must be zero is not. -/
abbrev IllegalWord (w : CommandWord) : Prop :=
  w.extractLsb' 56 8 ∉ [0x01#8, 0x02#8, 0x03#8, 0x04#8, 0x05#8, 0x06#8] ∨
  w.extractLsb' 32 24 ≠ 0#24 ∨
  (w.extractLsb' 56 8 ∈ [0x01#8, 0x03#8, 0x05#8, 0x06#8] ∧ w.extractLsb' 0 32 ≠ 0#32) ∨
  (w.extractLsb' 56 8 = 0x04#8 ∧ w.extractLsb' 0 16 ≠ 0#16)

/-- A host command (R81), as against a medium frame. -/
def IsCommand (i : Instr) : Bool :=
  match i with
  | .init | .append _ _ _ | .lastRecord | .recordAt _ | .traverseOldest | .traverseNewest => true
  | .mediumWren | .mediumWrdi | .mediumRead _ _ | .mediumWrite _ _ => false
  | .mediumRdsr | .mediumWrsr | .mediumFastRead | .mediumSleep | .mediumRdid => false

/-- A command that only reads the ring (R150, R151, R190, R191). -/
def IsRead (i : Instr) : Bool :=
  match i with
  | .lastRecord | .recordAt _ | .traverseOldest | .traverseNewest => true
  | .init | .append _ _ _ => false
  | .mediumWren | .mediumWrdi | .mediumRead _ _ | .mediumWrite _ _ => false
  | .mediumRdsr | .mediumWrsr | .mediumFastRead | .mediumSleep | .mediumRdid => false

/-- The statuses a command can end with, by the table of R202; `ILLEGAL_COMMAND` is the decoder's, before a command. -/
def finalStatuses (i : Instr) : List Status :=
  match i with
  | .init => [.ok, .transportError, .transportBusy, .transportTimeout, .writeFailed]
  | .append _ _ _ =>
    [.ok, .uninitialized, .invalidArgument, .transportError, .transportBusy, .transportTimeout, .writeFailed]
  | .lastRecord => [.ok, .uninitialized, .zeroRecords, .transportError, .transportBusy, .transportTimeout]
  | .recordAt _ =>
    [.ok, .uninitialized, .zeroRecords, .invalidArgument, .transportError, .transportBusy, .transportTimeout]
  | .traverseOldest => [.ok, .uninitialized, .transportError, .transportBusy, .transportTimeout]
  | .traverseNewest => [.ok, .uninitialized, .transportError, .transportBusy, .transportTimeout]
  | .mediumWren | .mediumWrdi | .mediumRead _ _ | .mediumWrite _ _ => []
  | .mediumRdsr | .mediumWrsr | .mediumFastRead | .mediumSleep | .mediumRdid => []

/-- `s` with one more beat, nothing else done, and the command ended. -/
def State.answered (s : State) (b : Beat) : State :=
  { s with response := s.response ++ [b], phase := .idle, transport := none }

/-- The outcome is no fault. -/
def NoFault (o : Host.Outcome State Fault Refusal) : Prop := ∀ e, o ≠ .fault e

end Sys2Proof.Machine
end

