-- ==== Sys2Proof/Certificates/Slice0/Obligations.lean ====
section
/-! DEFINITION. The statements, each with the rules of spec/ it formalises. -/

open Sys2Proof Sys2Proof.Machine

/-! ## Encodings -/

/-- R80-R84, R94, R95, R98: decoding an encoded well-formed instruction gives it back, for every legal parameter set. -/
def Obligations.DecodeInvertsEncode : Prop :=
  ∀ (P : Params) (i : Instr), P.Legal → i.wellFormed = true → decode P (encode P i) = .ok i

/-- Each word has one meaning: what decodes is well-formed and encodes to the same word. -/
def Obligations.EncodeInvertsDecode : Prop :=
  ∀ (P : Params) (w : Wire) (i : Instr), P.Legal → decode P w = .ok i → i.wellFormed = true ∧ encode P i = w

/-- R94: the words the six commands assemble to. -/
def Obligations.CommandsAssembleAsR94 : Prop :=
  ∀ (P : Params) (level thread : Byte) (code i : Word),
    encode P (.append level thread code) =
      .command (0x0200000000000000#64 ||| (code.setWidth 64 <<< 16) ||| (thread.setWidth 64 <<< 8) |||
        level.setWidth 64) ∧
    encode P (.recordAt i) = .command (0x0400000000000000#64 ||| (i.setWidth 64 <<< 16)) ∧
    encode P .init = .command (0x01#64 <<< 56) ∧
    encode P .lastRecord = .command (0x03#64 <<< 56) ∧
    encode P .traverseOldest = .command (0x05#64 <<< 56) ∧
    encode P .traverseNewest = .command (0x06#64 <<< 56)

/-- Words written out from R80, R81, R95 with the default opcodes (log 3) and spec/95 decode to the instructions they
stand for. -/
def Obligations.WrittenOutWordsDecode : Prop :=
  decodeTableWord 64 0x0100000000000000 = some .init ∧
  decodeTableWord 64 0x0200000001F40201 = some (.append 1 2 500) ∧
  decodeTableWord 64 0x0300000000000000 = some .lastRecord ∧
  decodeTableWord 64 0x040000003F9B0000 = some (.recordAt 16283) ∧
  decodeTableWord 64 0x0500000000000000 = some .traverseOldest ∧
  decodeTableWord 64 0x0600000000000000 = some .traverseNewest ∧
  decode Config.params (.exchange ⟨[0x06], 0⟩) = .ok .mediumWren ∧
  decode Config.params (.exchange ⟨[0x04], 0⟩) = .ok .mediumWrdi ∧
  decode Config.params (.exchange ⟨[0x03, 0x7F, 0xFC], 2⟩) = .ok (.mediumRead 32764 2) ∧
  decode Config.params (.exchange ⟨[0x02, 0x00, 0xC8, 0x7D], 0⟩) = .ok (.mediumWrite 200 0x7D)

/-- R85: the decoder refuses exactly the illegal words, and an illegal word is answered with one beat
`ILLEGAL_COMMAND, LAST = 1, RECORD = 0`, no exchange and no register changed. -/
def Obligations.IllegalWordsAreAnsweredAsR85 : Prop :=
  (∀ w : CommandWord, (∃ r, decodeCommand w = .error r) ↔ IllegalWord w) ∧
  ∀ (s : State) (w : CommandWord), s.phase = .idle → IllegalWord w →
    (∀ rest, s.requests = w :: rest → step s = .next ({ s with requests := rest }.answered 0x88000000#32)) ∧
    (∀ rest, s.requests = [] → s.inbox = .command w :: rest →
      step s = .next ({ s with inbox := rest }.answered 0x88000000#32))

/-- R86, R87: where STATUS, LAST and RECORD stand in a beat, the zero bits, and the numbers of the statuses. -/
def Obligations.BeatFieldsAreWhereR86PutsThem : Prop :=
  (∀ (st : Status) (last : Bool) (r : Word),
    (beat st last r).extractLsb' 28 4 = st.code ∧ (beat st last r).getLsbD 27 = last ∧
    (beat st last r).extractLsb' 16 11 = 0#11 ∧ (beat st last r).extractLsb' 0 16 = r) ∧
  [Status.ok, .uninitialized, .transportError, .transportBusy, .transportTimeout, .invalidArgument, .writeFailed,
    .zeroRecords, .illegalCommand].map (fun st => st.code.toNat) = [0, 1, 2, 3, 4, 5, 6, 7, 8]

/-! ## Codec and byte order -/

/-- R121: `W = code * 64 + thread * 8 + level`, `HI = W div 256`, `LO = W mod 256`, and the rule's four values. -/
def Obligations.EncIsTheArithmeticOfR121 : Prop :=
  (∀ (level thread : BitVec 3) (code : BitVec 10),
    let w := code.toNat * 64 + thread.toNat * 8 + level.toNat
    (enc level thread code).1.toNat = w / 256 ∧ (enc level thread code).2.toNat = w % 256) ∧
  enc 0 0 0 = (0x00, 0x00) ∧ enc 7 7 1022 = (0xFF, 0xBF) ∧ enc 7 7 1023 = (0xFF, 0xFF) ∧
  enc 1 2 500 = (0x7D, 0x11)

/-- R122: `level`, `thread` and `code` from the two bytes, and the rule's three values; every two bytes decode. -/
def Obligations.DecIsTheArithmeticOfR122 : Prop :=
  (∀ hi lo : Byte,
    (dec hi lo).1.toNat = lo.toNat % 8 ∧ (dec hi lo).2.1.toNat = lo.toNat / 8 % 8 ∧
    (dec hi lo).2.2.toNat = hi.toNat * 4 + lo.toNat / 64) ∧
  dec 0xFF 0xFF = (7, 7, 1023) ∧ dec 0x00 0x00 = (0, 0, 0) ∧ dec 0x7D 0x11 = (1, 2, 500)

/-- R124: `Enc` and `Dec` are inverse in both directions. -/
def Obligations.CodecRoundTrips : Prop :=
  (∀ (level thread : BitVec 3) (code : BitVec 10),
    dec (enc level thread code).1 (enc level thread code).2 = (level, thread, code)) ∧
  ∀ hi lo : Byte, enc (dec hi lo).1 (dec hi lo).2.1 (dec hi lo).2.2 = (hi, lo)

/-- R126: the RECORD field of a decoded slot is the word `HI ++ LO` read from it. -/
def Obligations.RecordFieldIsTheSlotWord : Prop := ∀ hi lo : Byte, decodedRecord hi lo = hi ++ lo

/-- R15: `be16`, `unbe16`, `meta16` and its inverse `unmeta16`, in both byte orders. -/
def Obligations.MetadataBytesAreThoseOfR15 : Prop :=
  ∀ (P : Params) (v : Word) (b0 b1 : Byte),
    (be16 v).1.toNat = v.toNat / 256 ∧ (be16 v).2.toNat = v.toNat % 256 ∧
    (unbe16 b0 b1).toNat = b0.toNat * 256 + b1.toNat ∧
    (meta16 P v = if P.metaBigEndian then be16 v else ((be16 v).2, (be16 v).1)) ∧
    unmeta16 P (meta16 P v).1 (meta16 P v).2 = v ∧ meta16 P (unmeta16 P b0 b1) = (b0, b1)

/-! ## Wrap logic -/

/-- R141, R142: `Next` and `Prev` on slot addresses, as cases, as positions modulo `N_SLOTS`, and as inverses. -/
def Obligations.NextAndPrevWalkTheRing : Prop :=
  ∀ (P : Params) (c : Nat), P.Legal → ValidSlot P c →
    ValidSlot P (nextSlot P c) ∧ ValidSlot P (prevSlot P c) ∧
    (nextSlot P c = if c = P.ringLast then P.ringStart else c + 2) ∧
    (prevSlot P c = if c = P.ringStart then P.ringLast else c - 2) ∧
    nextSlot P c = slotAddr P ((slotPos P c + 1) % P.nSlots) ∧
    prevSlot P c = slotAddr P ((slotPos P c + P.nSlots - 1) % P.nSlots) ∧
    prevSlot P (nextSlot P c) = c ∧ nextSlot P (prevSlot P c) = c

/-- R146: the closed form of `Back`. -/
def Obligations.BackHasTheClosedFormOfR146 : Prop :=
  ∀ (P : Params) (c k : Nat), P.Legal → ValidSlot P c → k ≤ P.nSlots →
    backSlot P c k = slotAddr P ((slotPos P c + P.nSlots - k) % P.nSlots)

/-- R144: with the default parameters `Valid` holds exactly for the even numbers 200 .. 32764. -/
def Obligations.ValidSlotsAreTheEvenAddresses : Prop :=
  ∀ a : Nat, ValidSlot Config.params a ↔ 200 ≤ a ∧ a ≤ 32764 ∧ a % 2 = 0

/-- R52, R53, R56: an address the block may name lies in METADATA 100..103 or in RING up to 32765. -/
def Obligations.FramedAddressesAvoidConfigAndPad : Prop :=
  ∀ a : Nat, FramedAddr Config.params a →
    (regionOf Config.params a = .metadata ∧ a ≤ 103) ∨ (regionOf Config.params a = .ring ∧ a ≤ 32765)

/-- R154, on addresses: `n` steps of `Next` from `c0` lead to position `(pos(c0) + n) mod N_SLOTS`. -/
def Obligations.RepeatedNextAddsPositionsModuloSlots : Prop :=
  ∀ (P : Params) (c n : Nat), P.Legal → ValidSlot P c →
    (nextSlot P)^[n] c = slotAddr P ((slotPos P c + n) % P.nSlots)

/-- R154, R155, on addresses: while the ring is not full, advancing the cursor and the count leaves every logical index at
its slot; when it is full, advancing the cursor gives index `i` the slot of index `i + 1`. -/
def Obligations.AdvancingTheCursorKeepsLogicalSlots : Prop :=
  ∀ (P : Params) (c n i : Nat), P.Legal → ValidSlot P c → 1 ≤ i → n ≤ P.capacity →
    (n < P.capacity → i ≤ n → backSlot P (nextSlot P c) (n + 1 + 1 - i) = backSlot P c (n + 1 - i)) ∧
    (n = P.capacity → i < n → backSlot P (nextSlot P c) (n + 1 - i) = backSlot P c (n + 1 - (i + 1)))

/-! ## Reset and the cached registers -/

/-- R37, R230: the state after reset. The spec's values: MODE, PHASE, the empty channels, COUNT and CURSOR holding no
value. That an unwritten byte reads 0xFF is the default ERASE_VALUE (log 5). -/
def Obligations.ResetLeavesTheStateOfR37 : Prop :=
  State.reset.mode = .uninit ∧ State.reset.phase = .idle ∧
  readCount State.reset = .error (.holdsNoValue .count) ∧
  readCursor State.reset = .error (.holdsNoValue .cursor) ∧
  State.reset.requests = [] ∧ State.reset.response = [] ∧ State.reset.transport = none ∧
  ∀ a, State.reset.byte a = 0xFF

/-- R22: while MODE = UNINIT a read of COUNT or CURSOR faults, and no step depends on what the two fields hold: two
states that differ only there step to states that differ at most there, and not at all once MODE = BOOT. -/
def Obligations.CachedRegistersHoldNoValueBeforeInit : Prop :=
  (∀ s : State, s.mode = .uninit →
    readCount s = .error (.holdsNoValue .count) ∧ readCursor s = .error (.holdsNoValue .cursor)) ∧
  (∀ (s : State) (n c : Word), s.mode = .uninit →
    match step s, step { s with count := n, cursor := c } with
    | .next t, .next u => u = { t with count := u.count, cursor := u.cursor } ∧ (t.mode = .boot → u = t)
    | .fault e, .fault e' => e = e'
    | .refused r, .refused r' => r = r'
    | _, _ => False)

/-! ## The medium -/

/-- R65: the effects of the four frames at the medium, each with everything it leaves unchanged: WREN sets WEL, WRDI
clears it, READ has no side effect, WRITE stores its byte only if WEL is set and the medium is not protected, and clears
WEL. The "hold" input is inactive, as R35 requires. That a WRITE with WEL clear stores nothing is the spec's own choice (D27, log 20); that a frame on its own meets no
transport failure is the model's (log 17). -/
def Obligations.MediumFramesActAsR65 : Prop :=
  ∀ (s : State) (a : Word) (d : Byte), s.hold = false → MediumOk Config.params s →
    exec .mediumWren s =
      .next { s with wel := true, exchanges := s.exchanges ++ [completed ⟨[0x06], 0⟩ .ok []] } ∧
    exec .mediumWrdi s =
      .next { s with wel := false, exchanges := s.exchanges ++ [completed ⟨[0x04], 0⟩ .ok []] } ∧
    (∀ n, n = 1 ∨ n = 2 → a.toNat + n ≤ 32768 →
      exec (.mediumRead a n) s =
        .next { s with
          exchanges := s.exchanges ++
            [completed ⟨[0x03, a.extractLsb' 8 8, a.extractLsb' 0 8], n⟩ .ok
              ((List.range n).map fun k => s.byte (a.toNat + k))] }) ∧
    (a.toNat < 32768 →
      ∃ t, exec (.mediumWrite a d) s = .next t ∧
        t = { s with
          mem := t.mem, wel := false,
          exchanges := s.exchanges ++
            [completed ⟨[0x02, a.extractLsb' 8 8, a.extractLsb' 0 8, d], 0⟩ .ok []] } ∧
        ∀ x, t.byte x = if x = a.toNat ∧ s.wel = true ∧ s.protect = false then d else s.byte x)

/-- R50, and the model's choice log 4: a READ or WRITE past the end of the medium stops by name. -/
def Obligations.FramesBeyondTheMediumStopByName : Prop :=
  ∀ (s : State) (a : Word) (d : Byte) (n : Nat),
    (32768 < a.toNat + n → exec (.mediumRead a n) s = .fault (.beyondMedium (a.toNat + n - 1))) ∧
    (32768 ≤ a.toNat → exec (.mediumWrite a d) s = .fault (.beyondMedium a.toNat))

/-- R35: no behaviour is given for an active "hold" input, so a frame that meets it goes on with a free effect (the
model's choice, log 19): another agent's frame answers a next state, it changes the latch, the one byte of a WRITE into a
writable medium, the record and the model's count, and nothing else. -/
def Obligations.FramesAtAHeldMediumGoOn : Prop :=
  ∀ (s : State) (a : Word) (d : Byte), s.hold = true → MediumOk Config.params s →
    (∃ t, exec .mediumWren s = .next t ∧
      t = { s with
        wel := t.wel, heldFrames := s.heldFrames + 1,
        exchanges := s.exchanges ++ [completed ⟨[0x06], 0⟩ .ok []] }) ∧
    (∃ t, exec .mediumWrdi s = .next t ∧
      t = { s with
        wel := t.wel, heldFrames := s.heldFrames + 1,
        exchanges := s.exchanges ++ [completed ⟨[0x04], 0⟩ .ok []] }) ∧
    (∀ n, n = 1 ∨ n = 2 → a.toNat + n ≤ 32768 →
      ∃ rx : Bytes, rx.length = n ∧ exec (.mediumRead a n) s =
        .next { s with
          heldFrames := s.heldFrames + 1,
          exchanges := s.exchanges ++ [completed ⟨[0x03, a.extractLsb' 8 8, a.extractLsb' 0 8], n⟩ .ok rx] }) ∧
    (a.toNat < 32768 →
      ∃ t, exec (.mediumWrite a d) s = .next t ∧
        t = { s with
          mem := t.mem, wel := t.wel, heldFrames := s.heldFrames + 1,
          exchanges := s.exchanges ++
            [completed ⟨[0x02, a.extractLsb' 8 8, a.extractLsb' 0 8, d], 0⟩ .ok []] } ∧
        ∀ x, x ≠ a.toNat ∨ s.writable = false → t.byte x = s.byte x)

/-- R97, R213: the five medium commands the block never issues have no effect given and are refused by name (log 17). -/
def Obligations.UnissuedMediumCommandsAreRefused : Prop :=
  ∀ s : State,
    exec .mediumRdsr s = .refused (.mediumEffectNotGiven "MEDIUM_RDSR") ∧
    exec .mediumWrsr s = .refused (.mediumEffectNotGiven "MEDIUM_WRSR") ∧
    exec .mediumFastRead s = .refused (.mediumEffectNotGiven "MEDIUM_FAST_READ") ∧
    exec .mediumSleep s = .refused (.mediumEffectNotGiven "MEDIUM_SLEEP") ∧
    exec .mediumRdid s = .refused (.mediumEffectNotGiven "MEDIUM_RDID")

/-- R236, R65: while "protect" is active no step of the block, by command or by going on with one, changes a byte of the
medium, unless power is lost inside a WRITE. That no failed WRITE reaches a protected byte is the model's reading (log 12,
log 20). -/
def Obligations.ProtectedMediumKeepsItsBytes : Prop :=
  ∀ (s t : State) (i : Instr), s.protect = true → s.powered = true → IsCommand i = true →
    (exec i s = .next t → t.mem = s.mem) ∧
    (∀ c k, s.phase = .run c k → step s = .next t → t.mem = s.mem)

/-! ## Steps -/

/-- R30: what a step runs. An idle block accepts the request that waits, else takes the head of the inbox, and runs the
instruction it decodes to, with the word or frame taken; with nothing there it waits; a running command goes on. The
inbox is the model's form of what the outside still sends (log 9, log 14). -/
def Obligations.StepRunsTheDecodedInstruction : Prop :=
  ∀ (s : State) (i : Instr),
    (∀ w rest, s.phase = .idle → s.requests = w :: rest → decode Config.params (.command w) = .ok i →
      step s = exec i { s with requests := rest }) ∧
    (∀ w rest, s.phase = .idle → s.requests = [] → s.inbox = .command w :: rest →
      decode Config.params (.command w) = .ok i → step s = exec i { s with inbox := rest }) ∧
    (∀ x rest, s.phase = .idle → s.requests = [] → s.inbox = .frame x :: rest →
      decode Config.params (.exchange x) = .ok i → step s = exec i { s with inbox := rest }) ∧
    (s.phase = .idle → s.requests = [] → s.inbox = [] → step s = .next s) ∧
    (∀ c k, s.phase = .run c k → step s = outcomeOf (proceed Config.params s))

/-- R30: while a command is in progress the block accepts nothing from the request channel, and a request waits: a step
leaves the requests that wait as they are (a loss of power apart, R37).
The model's own choice (DESIGN CHOICE, log 14), which R30 does not say: what is still to come from outside stands in the
inbox, which such a step leaves as it is; and a command executed inside another joins the end of the request channel,
behind the others, with nothing else changed. -/
def Obligations.RequestsWaitForTheRunningCommand : Prop :=
  ∀ (s : State) (c : Instr) (k : Position), s.phase = .run c k →
    (∀ t, step s = .next t → t.inbox = s.inbox ∧ (s.powered = true → t.requests = s.requests)) ∧
    (∀ i w, decodeCommand w = .ok i → exec i s = .next { s with requests := s.requests ++ [w] })

/-- R26, R31: waiting for the transport changes nothing: a running command that meets `xs` and later `ys` comes to the
same state as one that meets both at once. -/
def Obligations.WaitingChangesNothing : Prop :=
  ∀ (s t : State) (c : Instr) (k : Position) (xs ys : List Answer),
    s.phase = .run c k → k ≠ .start → step { s with answers := xs } = .next t →
    (t.phase = .idle → step { s with answers := xs ++ ys } = .next { t with answers := t.answers ++ ys }) ∧
    (t.phase ≠ .idle → step { s with answers := xs ++ ys } = step { t with answers := ys })

/-- R35, R36, R246: a byte changed by another agent changes that byte alone, and the medium's inputs change alone; no
register of the block sees either. That both land only between commands is the model's (log 14). -/
def Obligations.ExternalChangesAreNotSeen : Prop :=
  (∀ (s : State) (a : Nat) (b : Byte) (rest : List Arrival),
    s.phase = .idle → s.requests = [] → s.inbox = .externalByte a b :: rest → MediumOk Config.params s → a < 32768 →
    ∃ t, step s = .next t ∧ t = { s with inbox := rest, mem := t.mem } ∧
      ∀ x, t.byte x = if x = a then b else s.byte x) ∧
  ∀ (s : State) (protect hold : Bool) (rest : List Arrival),
    s.phase = .idle → s.requests = [] → s.inbox = .pins protect hold :: rest →
    step s = .next { s with inbox := rest, protect := protect, hold := hold }

/-- R230, R234: power lost and restored while the block is idle: every register and channel of the block has its reset
value (the request channel is empty), the medium keeps every byte, its latch is any value (the arrival's).
The model's own choices (DESIGN CHOICE): COUNT and CURSOR, which hold no value at reset, have their fields at 0 (log 6);
the scratch registers, unspecified at reset, are 0 (log 7); what is still to come (the inbox, the answers), the record
of exchanges and the medium's inputs are kept (log 13). -/
def Obligations.PowerCycleKeepsTheMedium : Prop :=
  ∀ (s : State) (wel : Bool) (rest : List Arrival),
    s.phase = .idle → s.requests = [] → s.inbox = .powerCycle wel :: rest →
    step s = .next
      { State.reset with
        inbox := rest, answers := s.answers, exchanges := s.exchanges, mem := s.mem, wel := wel,
        protect := s.protect, hold := s.hold, heldFrames := s.heldFrames }

/-- R232, R234: power lost while an exchange of a command is in progress: the command is abandoned, no final beat is
sent and no further exchange issued, the block is reset and no request waits, whatever "hold" is; the byte of a WRITE
in progress holds any value (the answer's), and no other byte changes.
The model's own choices (DESIGN CHOICE): COUNT and CURSOR, which hold no value at reset (R37, R230), have their fields
at 0 (log 6); the scratch registers, unspecified at reset, are 0 (log 7); what is still to come (the inbox, the answers
left), the record of exchanges and the medium's inputs are kept (log 13). -/
def Obligations.PowerLossAbandonsTheCommand : Prop :=
  ∀ (s : State) (c : Instr) (k : Position) (x : Exchange) (b : Byte) (wel : Bool) (rest : List Answer),
    Inv Config.params s → s.phase = .run c k → s.transport = some x →
    s.answers = .powerLoss b wel :: rest →
    ∃ t, step s = .next t ∧
      t = { State.reset with
        inbox := s.inbox, answers := rest, mem := t.mem, wel := wel, protect := s.protect, hold := s.hold,
        heldFrames := s.heldFrames,
        exchanges := s.exchanges ++ [{ tx := x.tx, n := x.n, outcome := none, rx := [] }] } ∧
      ∀ y, t.byte y =
        match decode Config.params (.exchange x) with
        | .ok (.mediumWrite a _) => if y = a.toNat then b else s.byte y
        | _ => s.byte y

/-! ## INIT -/

/-- R171, R172, R173: INIT when no exchange fails: what the registers, the medium, the beats and the exchanges then are,
with each repair made exactly when its value is illegal; and what INIT leaves unchanged. -/
def Obligations.InitLoadsAndRepairs : Prop :=
  ∀ (s : State) (rest : List Answer), s.phase = .idle → s.protect = false → MediumOk Config.params s →
    let n0 := s.metaValue 100
    let u0 := s.metaValue 102
    let countOk : Bool := decide (n0.toNat ≤ 16283)
    let cursorOk : Bool := decide (200 ≤ u0.toNat ∧ u0.toNat ≤ 32764 ∧ u0.toNat % 2 = 0)
    s.answers = goodThen (2 + (if countOk then 0 else 8) + (if cursorOk then 0 else 8)) rest →
    ∃ t, exec .init s = .next t ∧
      t.mode = .boot ∧ (t.count = if countOk then n0 else 0) ∧ (t.cursor = if cursorOk then u0 else 200) ∧
      t.phase = .idle ∧ t.transport = none ∧ t.response = s.response ++ [0x08000000#32] ∧ t.answers = rest ∧
      t.exchanges = s.exchanges ++ [readRecordOf Config.params s 100, readRecordOf Config.params s 102] ++
        (if countOk then [] else writeVerifyRecord Config.params 100 0x00 0x00) ++
        (if cursorOk then [] else writeVerifyRecord Config.params 102 0x00 0xC8) ∧
      (∀ a, t.byte a =
        if countOk = false ∧ (a = 100 ∨ a = 101) then 0x00
        else if cursorOk = false ∧ a = 102 then 0x00
        else if cursorOk = false ∧ a = 103 then 0xC8
        else s.byte a) ∧
      t.hi = s.hi ∧ t.lo = s.lo ∧ t.newCount = s.newCount ∧ t.newCursor = s.newCursor ∧ t.i = s.i ∧
      t.requests = s.requests ∧ t.inbox = s.inbox ∧ t.protect = s.protect ∧ t.hold = s.hold ∧
      t.heldFrames = s.heldFrames

/-- R176: on a medium whose metadata bytes all hold `E`, INIT comes to an empty ring at RING_START exactly for
`E = 0x00`, odd `E >= 0x41`, or `E >= 0x80`; the counter `257 * E` is kept for `E <= 0x3F`, the cursor `257 * E` for even
`E` in 0x02 .. 0x7E. -/
def Obligations.SelfHealOfAUniformMedium : Prop :=
  ∀ (s : State) (E : Byte) (rest : List Answer), s.phase = .idle → s.protect = false → MediumOk Config.params s →
    s.byte 100 = E → s.byte 101 = E → s.byte 102 = E → s.byte 103 = E → s.answers = goodThen 18 rest →
    ∃ t, exec .init s = .next t ∧ t.mode = .boot ∧
      (t.count.toNat = if E.toNat ≤ 0x3F then 257 * E.toNat else 0) ∧
      (t.cursor.toNat = if E.toNat % 2 = 0 ∧ 0x02 ≤ E.toNat ∧ E.toNat ≤ 0x7E then 257 * E.toNat else 200) ∧
      (t.count = 0 ∧ t.cursor = 200 ↔ E.toNat = 0 ∨ (E.toNat % 2 = 1 ∧ 0x41 ≤ E.toNat) ∨ 0x80 ≤ E.toNat)

/-- R174, R178: an INIT that has ended, in whatever mode it began and whatever the exchanges did short of power loss,
ended with OK in BOOT with legal registers, or with another status in UNINIT, where COUNT and CURSOR hold no value. -/
def Obligations.InitEndsBootedOrUninitialized : Prop :=
  ∀ s t : State, s.phase = .idle → s.powered = true → exec .init s = .next t → t.phase = .idle →
    (t.mode = .boot ∧ t.response = s.response ++ [beat .ok true 0] ∧ t.count.toNat ≤ 16283 ∧
      ValidSlot Config.params t.cursor.toNat) ∨
    (t.mode = .uninit ∧ (∃ st, st ≠ .ok ∧ t.response = s.response ++ [beat st true 0]) ∧
      readCount t = .error (.holdsNoValue .count) ∧ readCursor t = .error (.holdsNoValue .cursor))

/-- R171, R53: what INIT leaves unchanged whatever the exchanges do short of power loss, ended or waiting: the scratch
registers of other commands, the channels' past, the inputs, and every byte outside 100..103.
The model's own choice (DESIGN CHOICE, log 6): while MODE = UNINIT the fields COUNT and CURSOR are as they were. The
spec gives these registers no value there (R22, R174), and no step reads them. -/
def Obligations.InitFrame : Prop :=
  ∀ s t : State, s.phase = .idle → s.powered = true → MediumOk Config.params s → exec .init s = .next t →
    t.hi = s.hi ∧ t.lo = s.lo ∧ t.newCount = s.newCount ∧ t.newCursor = s.newCursor ∧ t.i = s.i ∧
    t.requests = s.requests ∧ t.inbox = s.inbox ∧ t.protect = s.protect ∧ t.hold = s.hold ∧
      t.heldFrames = s.heldFrames ∧
    (t.mode = .uninit → t.count = s.count ∧ t.cursor = s.cursor) ∧
    s.response <+: t.response ∧ s.exchanges <+: t.exchanges ∧ t.answers <:+ s.answers ∧
    ∀ a, ¬ (100 ≤ a ∧ a ≤ 103) → t.byte a = s.byte a

/-! ## APPEND -/

/-- R147, R148, R149: APPEND when no exchange fails: the record at CURSOR, the saturating count and the wrapped cursor
in the registers and on the medium, the 24 exchanges, one OK beat; and what APPEND leaves unchanged. -/
def Obligations.AppendStoresTheRecord : Prop :=
  ∀ (s : State) (level thread : Byte) (code : Word) (rest : List Answer),
    s.phase = .idle → s.protect = false → MediumOk Config.params s → RingReady Config.params s →
    level.toNat < 8 → thread.toNat < 8 → code.toNat < 1023 → s.answers = goodThen 24 rest →
    let c := s.cursor
    let w : Word := BitVec.ofNat 16 (code.toNat * 64 + thread.toNat * 8 + level.toNat)
    let n : Word := BitVec.ofNat 16 (min (s.count.toNat + 1) 16283)
    let u : Word := if s.cursor = 32764 then 200 else s.cursor + 2
    ∃ t, exec (.append level thread code) s = .next t ∧
      t.mode = .boot ∧ t.count = n ∧ t.cursor = u ∧ t.phase = .idle ∧ t.transport = none ∧
      t.response = s.response ++ [0x08000000#32] ∧ t.answers = rest ∧
      t.exchanges = s.exchanges ++ writeVerifyRecord Config.params c (w.extractLsb' 8 8) (w.extractLsb' 0 8) ++
        writeVerifyRecord Config.params 100 (n.extractLsb' 8 8) (n.extractLsb' 0 8) ++
        writeVerifyRecord Config.params 102 (u.extractLsb' 8 8) (u.extractLsb' 0 8) ∧
      (∀ a, t.byte a =
        if a = c.toNat then w.extractLsb' 8 8
        else if a = c.toNat + 1 then w.extractLsb' 0 8
        else if a = 100 then n.extractLsb' 8 8
        else if a = 101 then n.extractLsb' 0 8
        else if a = 102 then u.extractLsb' 8 8
        else if a = 103 then u.extractLsb' 0 8
        else s.byte a) ∧
      t.i = s.i ∧ t.cnt0 = s.cnt0 ∧ t.cur0 = s.cur0 ∧ t.requests = s.requests ∧ t.inbox = s.inbox ∧ t.protect = s.protect ∧ t.hold = s.hold ∧
      t.heldFrames = s.heldFrames

/-- R147, R203: a bootstrapped APPEND with a field out of range answers INVALID_ARGUMENT, with no exchange and nothing
else changed. -/
def Obligations.AppendRejectsFieldsOutOfRange : Prop :=
  ∀ (s : State) (level thread : Byte) (code : Word), s.phase = .idle → s.mode = .boot →
    8 ≤ level.toNat ∨ 8 ≤ thread.toNat ∨ 1023 ≤ code.toNat →
    exec (.append level thread code) s = .next (s.answered 0x58000000#32)

/-- R236: with "protect" active an APPEND whose first byte differs from the byte in its slot ends with WRITE_FAILED at its
read-back, after four exchanges, with no byte changed and nothing else but the scratch registers and the latch. -/
def Obligations.ProtectedAppendIsWriteFailed : Prop :=
  ∀ (s : State) (level thread : Byte) (code : Word) (rest : List Answer),
    s.phase = .idle → s.protect = true → MediumOk Config.params s → RingReady Config.params s →
    level.toNat < 8 → thread.toNat < 8 → code.toNat < 1023 → s.answers = goodThen 4 rest →
    let w : Word := BitVec.ofNat 16 (code.toNat * 64 + thread.toNat * 8 + level.toNat)
    let old := s.byte s.cursor.toNat
    old ≠ w.extractLsb' 8 8 →
    exec (.append level thread code) s = .next
      { s.answered 0x68000000#32 with
        hi := w.extractLsb' 8 8, lo := w.extractLsb' 0 8, j := 0, rb := old, wel := false, answers := rest,
        exchanges := s.exchanges ++ (writeVerifyRecord Config.params s.cursor (w.extractLsb' 8 8) 0).take 3 ++
          [completed (readFrame Config.params s.cursor 1) .ok [old]] }

/-- R156: the state after an APPEND that did not end with OK, by how many exchanges it made: none to 8 in the checks or
the payload write, 9 to 16 in the count write, 17 to 24 in the cursor write. COUNT and CURSOR, the bytes that may have
changed, and what stands in any case. That a verified value stands on the medium needs reads that deliver the medium's
bytes: they do while "hold" is inactive (R66), and else where the answers say so (log 11). -/
def Obligations.FailedAppendLeavesTheStateOfR156 : Prop :=
  ∀ (s t : State) (level thread : Byte) (code : Word),
    s.phase = .idle → s.powered = true → (s.hold = true → s.faithful = true) → MediumOk Config.params s →
    (s.mode = .boot → RingReady Config.params s) →
    exec (.append level thread code) s = .next t → t.phase = .idle →
    t.response ≠ s.response ++ [beat .ok true 0] →
    let m := t.exchanges.length - s.exchanges.length
    let w : Word := BitVec.ofNat 16 (code.toNat * 64 + thread.toNat * 8 + level.toNat)
    let onSlot : Nat → Prop := fun a => a = s.cursor.toNat ∨ a = s.cursor.toNat + 1
    t.mode = s.mode ∧ t.cursor = s.cursor ∧ m ≤ 24 ∧
    (∃ st, st ≠ .ok ∧ t.response = s.response ++ [beat st true 0]) ∧
    (m = 0 → t = s.answered (t.response.getLastD 0)) ∧
    (m ≤ 8 → t.count = s.count ∧ ∀ a, ¬ onSlot a → t.byte a = s.byte a) ∧
    (8 < m → t.byte s.cursor.toNat = w.extractLsb' 8 8 ∧ t.byte (s.cursor.toNat + 1) = w.extractLsb' 0 8) ∧
    (8 < m → m ≤ 16 →
      t.count = s.count ∧ ∀ a, ¬ onSlot a → a ≠ 100 → a ≠ 101 → t.byte a = s.byte a) ∧
    (16 < m →
      t.count = BitVec.ofNat 16 (min (s.count.toNat + 1) 16283) ∧
      t.byte 100 = t.count.extractLsb' 8 8 ∧ t.byte 101 = t.count.extractLsb' 0 8 ∧
      ∀ a, ¬ onSlot a → ¬ (100 ≤ a ∧ a ≤ 103) → t.byte a = s.byte a)

/-- R147: what APPEND leaves unchanged whatever the exchanges do short of power loss, ended or waiting. -/
def Obligations.AppendFrame : Prop :=
  ∀ (s t : State) (level thread : Byte) (code : Word),
    s.phase = .idle → s.powered = true → MediumOk Config.params s →
    exec (.append level thread code) s = .next t →
    t.mode = s.mode ∧ t.i = s.i ∧ t.cnt0 = s.cnt0 ∧ t.cur0 = s.cur0 ∧
    t.requests = s.requests ∧ t.inbox = s.inbox ∧ t.protect = s.protect ∧ t.hold = s.hold ∧
      t.heldFrames = s.heldFrames ∧
    s.response <+: t.response ∧ s.exchanges <+: t.exchanges ∧ t.answers <:+ s.answers ∧
    ∀ a, ¬ (a = s.cursor.toNat ∨ a = s.cursor.toNat + 1) → ¬ (100 ≤ a ∧ a ≤ 103) → t.byte a = s.byte a

/-- R154, R152: the record an APPEND stored is what LAST_RECORD then returns. -/
def Obligations.AppendedRecordIsTheLastRecord : Prop :=
  ∀ (s : State) (level thread : Byte) (code : Word) (rest : List Answer),
    s.phase = .idle → s.protect = false → MediumOk Config.params s → RingReady Config.params s →
    level.toNat < 8 → thread.toNat < 8 → code.toNat < 1023 → s.answers = goodThen 25 rest →
    ∃ t u, exec (.append level thread code) s = .next t ∧ exec .lastRecord t = .next u ∧
      u.response = s.response ++
        [beat .ok true 0,
         beat .ok true (BitVec.ofNat 16 (code.toNat * 64 + thread.toNat * 8 + level.toNat))]

/-- R154, R155: an APPEND leaves every other retained record in place: below CAPACITY each logical index still returns
its record, at CAPACITY index `i` returns what index `i + 1` returned before. -/
def Obligations.AppendKeepsTheOlderRecords : Prop :=
  ∀ (s : State) (level thread : Byte) (code i : Word) (rest : List Answer),
    s.phase = .idle → s.protect = false → MediumOk Config.params s → RingReady Config.params s →
    level.toNat < 8 → thread.toNat < 8 → code.toNat < 1023 → s.answers = goodThen 25 rest →
    1 ≤ i.toNat → i.toNat < s.count.toNat ∨ (i = s.count ∧ s.count.toNat < 16283) →
    ∃ t u v, exec (.append level thread code) s = .next t ∧
      exec (.recordAt i) { t with response := [] } = .next u ∧
      exec (.recordAt (if s.count.toNat < 16283 then i else i + 1)) { s with response := [] } = .next v ∧
      u.response = v.response

/-! ## Reading commands -/

/-- R153: the five commands other than INIT answer UNINITIALIZED while MODE = UNINIT, before any other check and with no
exchange; none of them changes MODE, power loss apart. -/
def Obligations.CommandsBeforeInitAnswerUninitialized : Prop :=
  ∀ (s : State) (i : Instr), IsCommand i = true → i ≠ .init →
    (s.phase = .idle → s.mode = .uninit → exec i s = .next (s.answered 0x18000000#32)) ∧
    (∀ t, s.powered = true → exec i s = .next t → t.mode = s.mode)

/-- R150: LAST_RECORD in each of its cases: before INIT, on an empty ring, its read, and a read that fails. -/
def Obligations.LastRecordReadsBehindTheCursor : Prop :=
  ∀ (s : State) (rest : List Answer), s.phase = .idle →
    let a := if s.cursor = 200 then 32764 else s.cursor.toNat - 2
    (s.mode = .uninit → exec .lastRecord s = .next (s.answered 0x18000000#32)) ∧
    (s.mode = .boot → s.count = 0 → exec .lastRecord s = .next (s.answered 0x78000000#32)) ∧
    (RingReady Config.params s → s.count ≠ 0 → s.answers = Answer.good :: rest →
      exec .lastRecord s = .next
        { s.answered (beat .ok true (s.slotWord a)) with
          answers := rest, exchanges := s.exchanges ++ [readRecordOf Config.params s a] }) ∧
    (∀ o f, RingReady Config.params s → s.count ≠ 0 → o ≠ .ok → s.answers = .returns o f :: rest →
      exec .lastRecord s = .next
        { s.answered (beat o.status true 0) with
          answers := rest,
          exchanges := s.exchanges ++ [completed (readFrame Config.params (BitVec.ofNat 16 a) 2) o []] })

/-- R151: RECORD_AT in each of its cases: before INIT, on an empty ring whatever the index, an index outside
`1 .. COUNT`, its read, and a read that fails. -/
def Obligations.RecordAtReadsTheIndexedSlot : Prop :=
  ∀ (s : State) (i : Word) (rest : List Answer), s.phase = .idle →
    let a := s.slotOf i.toNat
    (s.mode = .uninit → exec (.recordAt i) s = .next (s.answered 0x18000000#32)) ∧
    (s.mode = .boot → s.count = 0 → exec (.recordAt i) s = .next (s.answered 0x78000000#32)) ∧
    (s.mode = .boot → s.count ≠ 0 → i.toNat < 1 ∨ s.count.toNat < i.toNat →
      exec (.recordAt i) s = .next (s.answered 0x58000000#32)) ∧
    (RingReady Config.params s → 1 ≤ i.toNat → i.toNat ≤ s.count.toNat → s.answers = Answer.good :: rest →
      exec (.recordAt i) s = .next
        { s.answered (beat .ok true (s.slotWord a)) with
          answers := rest, exchanges := s.exchanges ++ [readRecordOf Config.params s a] }) ∧
    (∀ o f, RingReady Config.params s → 1 ≤ i.toNat → i.toNat ≤ s.count.toNat → o ≠ .ok →
      s.answers = .returns o f :: rest →
      exec (.recordAt i) s = .next
        { s.answered (beat o.status true 0) with
          answers := rest,
          exchanges := s.exchanges ++ [completed (readFrame Config.params (BitVec.ofNat 16 a) 2) o []] })

/-- R152: LAST_RECORD and RECORD_AT COUNT come to the same state, exchange and beat, whatever the exchange meets. -/
def Obligations.LastRecordIsRecordAtCount : Prop :=
  ∀ (s : State), s.phase = .idle → RingReady Config.params s → s.count ≠ 0 → s.answers ≠ [] →
    exec .lastRecord s = exec (.recordAt s.count) s

/-- R194: with MODE = BOOT and no failure TRAVERSE_OLDEST sends one record beat per logical index 1 .. COUNT, the record
of that index's slot, then the final beat, and its exchanges are the reads of those slots in that order; TRAVERSE_NEWEST
sends the same in reverse order. Nothing changes but the channels and the loop register I. -/
def Obligations.TraversalsListTheRing : Prop :=
  ∀ (s : State) (rest : List Answer), s.phase = .idle → RingReady Config.params s →
    s.answers = goodThen s.count.toNat rest →
    let slots := (List.range s.count.toNat).map fun k => s.slotOf (k + 1)
    let beats := slots.map fun a => beat .ok false (s.slotWord a)
    let reads := slots.map fun a => readRecordOf Config.params s a
    (∃ t, exec .traverseOldest s = .next t ∧
      t = { s with
        i := t.i, answers := rest, response := s.response ++ beats ++ [0x08000000#32],
        exchanges := s.exchanges ++ reads, transport := none }) ∧
    (∃ t, exec .traverseNewest s = .next t ∧
      t = { s with
        i := t.i, answers := rest, response := s.response ++ beats.reverse ++ [0x08000000#32],
        exchanges := s.exchanges ++ reads.reverse, transport := none })

/-- R190, R191, R192: a traversal whose exchange number `k + 1` fails has sent the `k` record beats before it, then one
final beat with the failure's status, and reads no further slot. -/
def Obligations.TraversalStopsAtTheFirstFailure : Prop :=
  ∀ (s : State) (k : Nat) (o : TransportOutcome) (f : Fate) (rest : List Answer),
    s.phase = .idle → RingReady Config.params s → k < s.count.toNat → o ≠ .ok →
    s.answers = goodThen k (.returns o f :: rest) →
    let oldest := (List.range k).map fun j => s.slotOf (j + 1)
    let newest := (List.range k).map fun j => s.slotOf (s.count.toNat - j)
    let beats (l : List Nat) := l.map fun a => beat .ok false (s.slotWord a)
    let reads (l : List Nat) := l.map fun a => readRecordOf Config.params s a
    let failed (a : Nat) := completed (readFrame Config.params (BitVec.ofNat 16 a) 2) o []
    (∃ t, exec .traverseOldest s = .next t ∧
      t = { s with
        i := t.i, answers := rest, response := s.response ++ beats oldest ++ [beat o.status true 0],
        exchanges := s.exchanges ++ reads oldest ++ [failed (s.slotOf (k + 1))], transport := none }) ∧
    (∃ t, exec .traverseNewest s = .next t ∧
      t = { s with
        i := t.i, answers := rest, response := s.response ++ beats newest ++ [beat o.status true 0],
        exchanges := s.exchanges ++ reads newest ++ [failed (s.slotOf (s.count.toNat - k))], transport := none })

/-- R150, R151, R190, R191, R206: what the reading commands leave unchanged whatever the exchanges do short of power
loss, ended or waiting: every register but the loop register I of a traversal, the whole medium, the inputs. -/
def Obligations.ReadCommandsFrame : Prop :=
  ∀ (s t : State) (i : Instr), s.phase = .idle → s.powered = true → IsRead i = true → exec i s = .next t →
    t = { s with
      i := t.i, phase := t.phase, transport := t.transport, response := t.response, answers := t.answers,
      exchanges := t.exchanges } ∧
    (i = .lastRecord ∨ (∃ n, i = .recordAt n) → t.i = s.i) ∧
    s.response <+: t.response ∧ s.exchanges <+: t.exchanges ∧ t.answers <:+ s.answers

/-! ## Failures of the gate and the comparator -/

/-- R112: when the WREN exchange fails the WRITE is not sent, a WRDI is, its outcome ignored, and the WREN failure's
status ends the command; no byte and no register of the command changes. -/
def Obligations.FailedEnableSkipsTheWrite : Prop :=
  ∀ (s : State) (c : Instr) (job : WriteJob) (o1 o2 : TransportOutcome) (f1 f2 : Fate) (rest : List Answer),
    Inv Config.params s → s.phase = .run c (.write job .wren) →
    s.answers = .returns o1 f1 :: .returns o2 f2 :: rest → o1 ≠ .ok →
    ∃ t, step s = .next t ∧
      t = { s with
        phase := .idle, transport := none, response := s.response ++ [beat o1.status true 0], answers := rest,
        wel := t.wel,
        exchanges := s.exchanges ++ [completed ⟨[0x06], 0⟩ o1 [], completed ⟨[0x04], 0⟩ o2 []] }

/-- R113: once the WREN exchange is through, the first failure in time among WRITE and WRDI ends the command with its
status, after the WRDI has been sent; only the addressed byte may have changed. -/
def Obligations.FirstGateFailureIsReported : Prop :=
  ∀ (s : State) (c : Instr) (job : WriteJob) (o2 o3 : TransportOutcome) (f1 f2 f3 : Fate) (rest : List Answer)
    (a : Nat) (b0 b1 : Byte),
    Inv Config.params s → s.phase = .run c (.write job .wren) →
    jobTarget Config.params job s = .ok (a, b0, b1) →
    s.answers = .returns .ok f1 :: .returns o2 f2 :: .returns o3 f3 :: rest → o2 ≠ .ok ∨ o3 ≠ .ok →
    let at_ := a + s.j.toNat
    let d := if s.j = 0 then b0 else b1
    ∃ t, step s = .next t ∧
      t = { s with
        phase := .idle, transport := none, answers := rest, wel := t.wel, mem := t.mem,
        response := s.response ++ [beat (if o2 = .ok then o3.status else o2.status) true 0],
        exchanges := s.exchanges ++
          [completed ⟨[0x06], 0⟩ .ok [],
           completed (writeFrame Config.params (BitVec.ofNat 16 at_) d) o2 [], completed ⟨[0x04], 0⟩ o3 []] } ∧
      ∀ y, y ≠ at_ → t.byte y = s.byte y

/-- R132, R133: a read-back byte that differs from the byte written in any bit ends the command with WRITE_FAILED, with
no further exchange and nothing else changed. -/
def Obligations.ComparatorMismatchIsWriteFailed : Prop :=
  ∀ (s : State) (c : Instr) (job : WriteJob) (a : Nat) (b0 b1 : Byte) (rest : List Answer),
    Inv Config.params s → s.phase = .run c (.write job .readBack) →
    jobTarget Config.params job s = .ok (a, b0, b1) → s.answers = Answer.good :: rest →
    let rb := s.byte (a + s.j.toNat)
    rb ≠ (if s.j = 0 then b0 else b1) →
    step s = .next
      { s.answered (beat .writeFailed true 0) with
        rb := rb, answers := rest,
        exchanges := s.exchanges ++
          [completed (readFrame Config.params (BitVec.ofNat 16 (a + s.j.toNat)) 1) .ok [rb]] }

/-! ## Whole-machine rules -/

/-- R202: a command that has ended, power loss apart, ended with one of the statuses its row of the table gives it. -/
def Obligations.CommandsEndWithTheirStatuses : Prop :=
  ∀ (s t : State) (i : Instr), s.phase = .idle → s.powered = true → IsCommand i = true →
    exec i s = .next t → t.phase = .idle →
    ∃ (st : Status) (r : Word) (records : List Word), st ∈ finalStatuses i ∧ (st ≠ .ok → r = 0) ∧
      t.response = s.response ++ records.map (beat .ok false) ++ [beat st true r] ∧
      (records ≠ [] → i = .traverseOldest ∨ i = .traverseNewest)

/-- R210: MODE becomes BOOT only by an INIT that ends with OK, and leaves BOOT only by an INIT or by a loss of power. -/
def Obligations.ModeChangesOnlyByInitOrReset : Prop :=
  ∀ s t : State, Inv Config.params s → step s = .next t → s.mode ≠ t.mode →
    let initInHand : Prop :=
      (∃ k, s.phase = .run .init k) ∨
      (s.phase = .idle ∧ ∃ w, s.nextRequest = some w ∧ decodeCommand w = .ok .init)
    (t.mode = .boot → initInHand ∧ t.phase = .idle ∧ t.response.getLast? = some (beat .ok true 0)) ∧
    (t.mode = .uninit →
      initInHand ∨ s.powered = false ∨
      (s.phase = .idle ∧ s.requests = [] ∧ ∃ wel rest, s.inbox = .powerCycle wel :: rest))

/-- R110, R111, R112, R115: over every step of the block, and for commands that wait and go on as well, the exchanges pass
the gate: starting from the window PHASE stands in, each WRITE comes directly after a WREN that was ok, a WRDI closes every
window and comes nowhere else, and the window left open is the one PHASE then stands in. Another agent's frame is no
exchange of the block. -/
def Obligations.EveryWriteIsGated : Prop :=
  (∀ s t : State, Inv Config.params s → s.frameInHand = false → step s = .next t →
    ∃ l, t.exchanges = s.exchanges ++ l ∧
      (windowOf s.phase).afterAll Config.params l = some (windowOf t.phase)) ∧
  ∀ (s t : State) (i : Instr), IsCommand i = true → exec i s = .next t →
    ∃ l, t.exchanges = s.exchanges ++ l ∧
      (windowOf s.phase).afterAll Config.params l = some (windowOf t.phase)

/-- R56, R96: whatever the transport answers, the block issues only WREN, WRDI, READ and WRITE frames, at the addresses
of the two metadata values and of the slots. -/
def Obligations.BlockIssuesOnlyItsFrames : Prop :=
  ∀ (s t : State), Inv Config.params s →
    (∀ i, IsCommand i = true → s.phase = .idle → exec i s = .next t →
      ∃ l, t.exchanges = s.exchanges ++ l ∧ ∀ r ∈ l, blockExchange Config.params r) ∧
    (∀ c k, s.phase = .run c k → step s = .next t →
      ∃ l, t.exchanges = s.exchanges ++ l ∧ ∀ r ∈ l, blockExchange Config.params r)

/-- R24 and its extension to the states inside a command: every step keeps the invariant. -/
def Obligations.StepKeepsTheInvariant : Prop :=
  ∀ s t : State, Inv Config.params s → step s = .next t → Inv Config.params t

/-- The invariant holds right after reset. -/
def Obligations.ResetMeetsTheInvariant : Prop := Inv Config.params State.reset

/-- R22, R140, spec/93: from a state that meets the invariant no step reads a register that holds no value, applies a
wrap function to an address that is not a slot, or loses its place; the only fault is another agent's access outside the
medium (log 4). -/
def Obligations.SafeStatesDoNotFault : Prop :=
  ∀ (s : State) (e : Fault), Inv Config.params s → step s = .fault e →
    ∃ a, e = .beyondMedium a ∧ 32768 ≤ a ∧ s.phase = .idle ∧ s.requests = [] ∧
      ((∃ x rest, s.inbox = .frame x :: rest) ∨ ∃ y b rest, s.inbox = .externalByte y b :: rest)
end

