-- ==== Sys2Proof/Laws/Bits.lean ====
section
/-! SUPPORT. Bits of the concatenations the model writes at a fixed width, the two halves of a word, and the
fields of a command word. -/

namespace Sys2Proof.Machine

theorem word_getLsbD_append (x y : Byte) (i : Nat) :
    (x ++ y : Word).getLsbD i = if i < 8 then y.getLsbD i else x.getLsbD (i - 8) := BitVec.getLsbD_append

theorem word_toNat_append (x y : Byte) : (x ++ y : Word).toNat = x.toNat * 256 + y.toNat := by
  have h : (x ++ y : Word).toNat = x.toNat <<< 8 ||| y.toNat := BitVec.toNat_append x y
  have hy : y.toNat < 2 ^ 8 := y.isLt
  rw [h, ← Nat.shiftLeft_add_eq_or_of_lt hy, Nat.shiftLeft_eq]

theorem recordWord_toNat (level thread : BitVec 3) (code : BitVec 10) :
    (recordWord level thread code).toNat = code.toNat * 64 + thread.toNat * 8 + level.toNat := by
  have h : (recordWord level thread code).toNat = (code ++ thread : BitVec 13).toNat <<< 3 ||| level.toNat :=
    BitVec.toNat_append _ _
  have h' : (code ++ thread : BitVec 13).toNat = code.toNat <<< 3 ||| thread.toNat := BitVec.toNat_append _ _
  have hl : level.toNat < 2 ^ 3 := level.isLt
  have ht : thread.toNat < 2 ^ 3 := thread.isLt
  rw [h, h', ← Nat.shiftLeft_add_eq_or_of_lt ht, ← Nat.shiftLeft_add_eq_or_of_lt hl, Nat.shiftLeft_eq,
    Nat.shiftLeft_eq]
  omega

theorem hiByte_toNat (v : Word) : (hiByte v).toNat = v.toNat / 256 := by
  have := v.isLt
  simp only [hiByte, BitVec.extractLsb'_toNat, Nat.shiftRight_eq_div_pow]
  omega

theorem loByte_toNat (v : Word) : (loByte v).toNat = v.toNat % 256 := by
  simp [loByte, BitVec.extractLsb'_toNat]

/-- A word is its two halves. -/
theorem hiByte_append_loByte (v : Word) : (hiByte v ++ loByte v : Word) = v := by
  apply BitVec.eq_of_toNat_eq
  rw [word_toNat_append, hiByte_toNat, loByte_toNat]
  omega

theorem hiByte_append (x y : Byte) : hiByte (x ++ y : Word) = x := by
  apply BitVec.eq_of_toNat_eq
  have := y.isLt
  rw [hiByte_toNat, word_toNat_append]
  omega

theorem loByte_append (x y : Byte) : loByte (x ++ y : Word) = y := by
  apply BitVec.eq_of_toNat_eq
  have := y.isLt
  rw [loByte_toNat, word_toNat_append]
  omega

/-! The fields of a command word (R80). -/

theorem cmdOp_commandWord (op : Byte) (a : Word) (b c : Byte) : cmdOp (commandWord op a b c) = op := by
  ext k hk
  simp [cmdOp, commandWord, BitVec.getElem_extractLsb']
  grind

theorem cmdRsv_commandWord (op : Byte) (a : Word) (b c : Byte) : cmdRsv (commandWord op a b c) = 0 := by
  ext k hk
  simp [cmdRsv, commandWord, BitVec.getElem_extractLsb']
  grind

theorem cmdA_commandWord (op : Byte) (a : Word) (b c : Byte) : cmdA (commandWord op a b c) = a := by
  ext k hk
  simp [cmdA, commandWord, BitVec.getElem_extractLsb']
  grind

theorem cmdB_commandWord (op : Byte) (a : Word) (b c : Byte) : cmdB (commandWord op a b c) = b := by
  ext k hk
  simp [cmdB, commandWord, BitVec.getElem_extractLsb']
  grind

theorem cmdC_commandWord (op : Byte) (a : Word) (b c : Byte) : cmdC (commandWord op a b c) = c := by
  ext k hk
  simp [cmdC, commandWord, BitVec.getElem_extractLsb']
  grind

end Sys2Proof.Machine
end

