-- ==== Sys2Proof/Laws/Memory.lean ====
section
/-! SUPPORT. The medium's bytes: canonical form, and what a read sees after a write. -/

namespace Sys2Proof.Machine

variable {e : Byte}

theorem Mem.wfFrom_mono {m : Mem} {lo lo' : Nat} (h : Mem.wfFrom e lo m = true) (hle : lo' ≤ lo) :
    Mem.wfFrom e lo' m = true := by
  cases m with
  | nil => rfl
  | cons c rest =>
    obtain ⟨a, v⟩ := c
    simp only [Mem.wfFrom, Bool.and_eq_true, decide_eq_true_eq] at h ⊢
    exact ⟨⟨hle.trans h.1.1, h.1.2⟩, h.2⟩

theorem Mem.read_below {m : Mem} {lo a : Nat} (h : Mem.wfFrom e lo m = true) (ha : a < lo) :
    Mem.read e m a = e := by
  cases m with
  | nil => rfl
  | cons c rest =>
    obtain ⟨b, v⟩ := c
    simp only [Mem.wfFrom, Bool.and_eq_true, decide_eq_true_eq] at h
    have h1 : a ≠ b := by omega
    have h2 : a < b := by omega
    simp [Mem.read, h1, h2]

/-- A write keeps the canonical form. -/
theorem Mem.wfFrom_write {m : Mem} {lo a : Nat} {v : Byte} (h : Mem.wfFrom e lo m = true) (ha : lo ≤ a) :
    Mem.wfFrom e lo (Mem.write e m a v) = true := by
  induction m generalizing lo with
  | nil =>
    simp only [Mem.write]
    split <;> simp_all [Mem.wfFrom]
  | cons c rest ih =>
    obtain ⟨b, w⟩ := c
    simp only [Mem.wfFrom, Bool.and_eq_true, decide_eq_true_eq] at h
    obtain ⟨⟨hb, hw⟩, hrest⟩ := h
    simp only [Mem.write]
    split
    · subst_vars
      split
      · exact Mem.wfFrom_mono hrest (by omega)
      · simp_all [Mem.wfFrom]
    · split
      · split
        · simp_all [Mem.wfFrom]
        · have : a + 1 ≤ b := by omega
          simp_all [Mem.wfFrom]
      · have : Mem.wfFrom e (b + 1) (Mem.write e rest a v) = true := ih hrest (by omega)
        simp_all [Mem.wfFrom]

theorem Mem.wf_write {m : Mem} (a : Nat) (v : Byte) (h : Mem.wf e m = true) :
    Mem.wf e (Mem.write e m a v) = true := Mem.wfFrom_write h (Nat.zero_le a)

@[simp] theorem Mem.wf_nil : Mem.wf e [] = true := rfl

@[simp] theorem Mem.within_nil (n : Nat) : Mem.within n [] = true := rfl

theorem Mem.within_cons (n a : Nat) (v : Byte) (m : Mem) :
    Mem.within n ((a, v) :: m) = (decide (a < n) && Mem.within n m) := rfl

/-- A write below the bound keeps the content inside it. -/
theorem Mem.within_write {m : Mem} {n a : Nat} {v : Byte} (h : Mem.within n m = true) (ha : a < n) :
    Mem.within n (Mem.write e m a v) = true := by
  induction m with
  | nil =>
    simp only [Mem.write]
    split <;> simp [Mem.within_cons, ha]
  | cons c rest ih =>
    obtain ⟨b, w⟩ := c
    simp only [Mem.within_cons, Bool.and_eq_true, decide_eq_true_eq] at h
    simp only [Mem.write]
    split
    · split <;> simp [Mem.within_cons, h, ha]
    · split
      · split <;> simp [Mem.within_cons, h, ha]
      · simp [Mem.within_cons, h, ih]

theorem Mem.read_writeFrom {m : Mem} {lo : Nat} (a : Nat) (v : Byte) (b : Nat) (h : Mem.wfFrom e lo m = true) :
    Mem.read e (Mem.write e m a v) b = if b = a then v else Mem.read e m b := by
  induction m generalizing lo with
  | nil =>
    by_cases hv : v = e <;> by_cases hb : b = a <;> simp [Mem.write, Mem.read, hv, hb]
  | cons c rest ih =>
    obtain ⟨k, w⟩ := c
    simp only [Mem.wfFrom, Bool.and_eq_true, decide_eq_true_eq] at h
    obtain ⟨⟨-, -⟩, hrest⟩ := h
    have below : ∀ x, x < k + 1 → Mem.read e rest x = e := fun x hx => Mem.read_below hrest hx
    simp only [Mem.write]
    split
    · next hak =>
      subst hak
      split
      · next hv =>
        by_cases hb : b = a
        · simp [hb, below, hv]
        · by_cases hlt : b < a
          · simp [Mem.read, hb, hlt, below b (by omega)]
          · simp [Mem.read, hb, hlt]
      · by_cases hb : b = a <;> simp [Mem.read, hb]
    · next hak =>
      split
      · next hlt =>
        split
        · next hv =>
          by_cases hb : b = a
          · have : a ≠ k := hak
            simp [hb, Mem.read, hak, hlt, hv]
          · simp [hb]
        · by_cases hb : b = a
          · simp [Mem.read, hb]
          · by_cases hb2 : b < a
            · have : b ≠ k := by omega
              have : b < k := by omega
              simp [Mem.read, *]
            · simp [Mem.read, hb, hb2]
      · next hlt =>
        have := ih hrest
        by_cases hbk : b = k
        · have : b ≠ a := by omega
          simp [Mem.read, hbk, Ne.symm hak]
        · by_cases hb2 : b < k
          · have : b ≠ a := by omega
            simp [Mem.read, *]
          · simp [Mem.read, hbk, hb2, this]

/-- What a read sees after a write to a canonical content. -/
theorem Mem.read_write {m : Mem} (a : Nat) (v : Byte) (b : Nat) (h : Mem.wf e m = true) :
    Mem.read e (Mem.write e m a v) b = if b = a then v else Mem.read e m b := Mem.read_writeFrom a v b h

theorem Mem.read_write_same {m : Mem} (a : Nat) (v : Byte) (h : Mem.wf e m = true) :
    Mem.read e (Mem.write e m a v) a = v := by simp [Mem.read_write a v a h]

theorem Mem.read_write_other {m : Mem} {a b : Nat} (v : Byte) (h : Mem.wf e m = true) (hab : b ≠ a) :
    Mem.read e (Mem.write e m a v) b = Mem.read e m b := by simp [Mem.read_write a v b h, hab]

@[simp] theorem Mem.readBytes_length (m : Mem) (a n : Nat) : (Mem.readBytes e m a n).length = n := by
  induction n generalizing a with
  | zero => rfl
  | succ n ih => simp [Mem.readBytes, ih]

theorem Mem.readBytes_one (m : Mem) (a : Nat) : Mem.readBytes e m a 1 = [Mem.read e m a] := rfl

theorem Mem.readBytes_two (m : Mem) (a : Nat) :
    Mem.readBytes e m a 2 = [Mem.read e m a, Mem.read e m (a + 1)] := rfl

end Sys2Proof.Machine
end

