-- ==== Sys2Proof/Laws/State.lean ====
section
/-! SUPPORT. One lemma per field per named update of the state, so that no proof unfolds a record update. -/

namespace Sys2Proof.Machine

/-! ## State.emit -/

@[simp] theorem State.emit_mode (s : State) (b : Beat) : (s.emit b).mode = s.mode := rfl
@[simp] theorem State.emit_count (s : State) (b : Beat) : (s.emit b).count = s.count := rfl
@[simp] theorem State.emit_cursor (s : State) (b : Beat) : (s.emit b).cursor = s.cursor := rfl
@[simp] theorem State.emit_phase (s : State) (b : Beat) : (s.emit b).phase = s.phase := rfl
@[simp] theorem State.emit_hi (s : State) (b : Beat) : (s.emit b).hi = s.hi := rfl
@[simp] theorem State.emit_lo (s : State) (b : Beat) : (s.emit b).lo = s.lo := rfl
@[simp] theorem State.emit_newCount (s : State) (b : Beat) : (s.emit b).newCount = s.newCount := rfl
@[simp] theorem State.emit_newCursor (s : State) (b : Beat) : (s.emit b).newCursor = s.newCursor := rfl
@[simp] theorem State.emit_rb (s : State) (b : Beat) : (s.emit b).rb = s.rb := rfl
@[simp] theorem State.emit_i (s : State) (b : Beat) : (s.emit b).i = s.i := rfl
@[simp] theorem State.emit_j (s : State) (b : Beat) : (s.emit b).j = s.j := rfl
@[simp] theorem State.emit_cnt0 (s : State) (b : Beat) : (s.emit b).cnt0 = s.cnt0 := rfl
@[simp] theorem State.emit_cur0 (s : State) (b : Beat) : (s.emit b).cur0 = s.cur0 := rfl
@[simp] theorem State.emit_requests (s : State) (b : Beat) : (s.emit b).requests = s.requests := rfl
@[simp] theorem State.emit_inbox (s : State) (b : Beat) : (s.emit b).inbox = s.inbox := rfl
@[simp] theorem State.emit_response (s : State) (b : Beat) : (s.emit b).response = s.response ++ [b] := rfl
@[simp] theorem State.emit_transport (s : State) (b : Beat) : (s.emit b).transport = s.transport := rfl
@[simp] theorem State.emit_answers (s : State) (b : Beat) : (s.emit b).answers = s.answers := rfl
@[simp] theorem State.emit_exchanges (s : State) (b : Beat) : (s.emit b).exchanges = s.exchanges := rfl
@[simp] theorem State.emit_mem (s : State) (b : Beat) : (s.emit b).mem = s.mem := rfl
@[simp] theorem State.emit_wel (s : State) (b : Beat) : (s.emit b).wel = s.wel := rfl
@[simp] theorem State.emit_protect (s : State) (b : Beat) : (s.emit b).protect = s.protect := rfl
@[simp] theorem State.emit_hold (s : State) (b : Beat) : (s.emit b).hold = s.hold := rfl
@[simp] theorem State.emit_heldFrames (s : State) (b : Beat) : (s.emit b).heldFrames = s.heldFrames := rfl

/-! ## State.finish -/

@[simp] theorem State.finish_mode (s : State) (st : Status) (r : Word) : (s.finish st r).mode = s.mode := rfl
@[simp] theorem State.finish_count (s : State) (st : Status) (r : Word) : (s.finish st r).count = s.count := rfl
@[simp] theorem State.finish_cursor (s : State) (st : Status) (r : Word) : (s.finish st r).cursor = s.cursor := rfl
@[simp] theorem State.finish_phase (s : State) (st : Status) (r : Word) : (s.finish st r).phase = .idle := rfl
@[simp] theorem State.finish_hi (s : State) (st : Status) (r : Word) : (s.finish st r).hi = s.hi := rfl
@[simp] theorem State.finish_lo (s : State) (st : Status) (r : Word) : (s.finish st r).lo = s.lo := rfl
@[simp] theorem State.finish_newCount (s : State) (st : Status) (r : Word) : (s.finish st r).newCount = s.newCount := rfl
@[simp] theorem State.finish_newCursor (s : State) (st : Status) (r : Word) : (s.finish st r).newCursor = s.newCursor := rfl
@[simp] theorem State.finish_rb (s : State) (st : Status) (r : Word) : (s.finish st r).rb = s.rb := rfl
@[simp] theorem State.finish_i (s : State) (st : Status) (r : Word) : (s.finish st r).i = s.i := rfl
@[simp] theorem State.finish_j (s : State) (st : Status) (r : Word) : (s.finish st r).j = s.j := rfl
@[simp] theorem State.finish_cnt0 (s : State) (st : Status) (r : Word) : (s.finish st r).cnt0 = s.cnt0 := rfl
@[simp] theorem State.finish_cur0 (s : State) (st : Status) (r : Word) : (s.finish st r).cur0 = s.cur0 := rfl
@[simp] theorem State.finish_requests (s : State) (st : Status) (r : Word) : (s.finish st r).requests = s.requests := rfl
@[simp] theorem State.finish_inbox (s : State) (st : Status) (r : Word) : (s.finish st r).inbox = s.inbox := rfl
@[simp] theorem State.finish_response (s : State) (st : Status) (r : Word) : (s.finish st r).response = s.response ++ [beat st true r] := rfl
@[simp] theorem State.finish_transport (s : State) (st : Status) (r : Word) : (s.finish st r).transport = none := rfl
@[simp] theorem State.finish_answers (s : State) (st : Status) (r : Word) : (s.finish st r).answers = s.answers := rfl
@[simp] theorem State.finish_exchanges (s : State) (st : Status) (r : Word) : (s.finish st r).exchanges = s.exchanges := rfl
@[simp] theorem State.finish_mem (s : State) (st : Status) (r : Word) : (s.finish st r).mem = s.mem := rfl
@[simp] theorem State.finish_wel (s : State) (st : Status) (r : Word) : (s.finish st r).wel = s.wel := rfl
@[simp] theorem State.finish_protect (s : State) (st : Status) (r : Word) : (s.finish st r).protect = s.protect := rfl
@[simp] theorem State.finish_hold (s : State) (st : Status) (r : Word) : (s.finish st r).hold = s.hold := rfl
@[simp] theorem State.finish_heldFrames (s : State) (st : Status) (r : Word) : (s.finish st r).heldFrames = s.heldFrames := rfl

/-! ## State.raise -/

@[simp] theorem State.raise_mode (s : State) (st : Status) : (s.raise st).mode = s.mode := rfl
@[simp] theorem State.raise_count (s : State) (st : Status) : (s.raise st).count = s.count := rfl
@[simp] theorem State.raise_cursor (s : State) (st : Status) : (s.raise st).cursor = s.cursor := rfl
@[simp] theorem State.raise_phase (s : State) (st : Status) : (s.raise st).phase = .idle := rfl
@[simp] theorem State.raise_hi (s : State) (st : Status) : (s.raise st).hi = s.hi := rfl
@[simp] theorem State.raise_lo (s : State) (st : Status) : (s.raise st).lo = s.lo := rfl
@[simp] theorem State.raise_newCount (s : State) (st : Status) : (s.raise st).newCount = s.newCount := rfl
@[simp] theorem State.raise_newCursor (s : State) (st : Status) : (s.raise st).newCursor = s.newCursor := rfl
@[simp] theorem State.raise_rb (s : State) (st : Status) : (s.raise st).rb = s.rb := rfl
@[simp] theorem State.raise_i (s : State) (st : Status) : (s.raise st).i = s.i := rfl
@[simp] theorem State.raise_j (s : State) (st : Status) : (s.raise st).j = s.j := rfl
@[simp] theorem State.raise_cnt0 (s : State) (st : Status) : (s.raise st).cnt0 = s.cnt0 := rfl
@[simp] theorem State.raise_cur0 (s : State) (st : Status) : (s.raise st).cur0 = s.cur0 := rfl
@[simp] theorem State.raise_requests (s : State) (st : Status) : (s.raise st).requests = s.requests := rfl
@[simp] theorem State.raise_inbox (s : State) (st : Status) : (s.raise st).inbox = s.inbox := rfl
@[simp] theorem State.raise_response (s : State) (st : Status) : (s.raise st).response = s.response ++ [beat st true 0] := rfl
@[simp] theorem State.raise_transport (s : State) (st : Status) : (s.raise st).transport = none := rfl
@[simp] theorem State.raise_answers (s : State) (st : Status) : (s.raise st).answers = s.answers := rfl
@[simp] theorem State.raise_exchanges (s : State) (st : Status) : (s.raise st).exchanges = s.exchanges := rfl
@[simp] theorem State.raise_mem (s : State) (st : Status) : (s.raise st).mem = s.mem := rfl
@[simp] theorem State.raise_wel (s : State) (st : Status) : (s.raise st).wel = s.wel := rfl
@[simp] theorem State.raise_protect (s : State) (st : Status) : (s.raise st).protect = s.protect := rfl
@[simp] theorem State.raise_hold (s : State) (st : Status) : (s.raise st).hold = s.hold := rfl
@[simp] theorem State.raise_heldFrames (s : State) (st : Status) : (s.raise st).heldFrames = s.heldFrames := rfl

/-! ## State.note -/

@[simp] theorem State.note_mode (s : State) (x : Exchange) (o : Option TransportOutcome) (rx : Bytes) : (s.note x o rx).mode = s.mode := rfl
@[simp] theorem State.note_count (s : State) (x : Exchange) (o : Option TransportOutcome) (rx : Bytes) : (s.note x o rx).count = s.count := rfl
@[simp] theorem State.note_cursor (s : State) (x : Exchange) (o : Option TransportOutcome) (rx : Bytes) : (s.note x o rx).cursor = s.cursor := rfl
@[simp] theorem State.note_phase (s : State) (x : Exchange) (o : Option TransportOutcome) (rx : Bytes) : (s.note x o rx).phase = s.phase := rfl
@[simp] theorem State.note_hi (s : State) (x : Exchange) (o : Option TransportOutcome) (rx : Bytes) : (s.note x o rx).hi = s.hi := rfl
@[simp] theorem State.note_lo (s : State) (x : Exchange) (o : Option TransportOutcome) (rx : Bytes) : (s.note x o rx).lo = s.lo := rfl
@[simp] theorem State.note_newCount (s : State) (x : Exchange) (o : Option TransportOutcome) (rx : Bytes) : (s.note x o rx).newCount = s.newCount := rfl
@[simp] theorem State.note_newCursor (s : State) (x : Exchange) (o : Option TransportOutcome) (rx : Bytes) : (s.note x o rx).newCursor = s.newCursor := rfl
@[simp] theorem State.note_rb (s : State) (x : Exchange) (o : Option TransportOutcome) (rx : Bytes) : (s.note x o rx).rb = s.rb := rfl
@[simp] theorem State.note_i (s : State) (x : Exchange) (o : Option TransportOutcome) (rx : Bytes) : (s.note x o rx).i = s.i := rfl
@[simp] theorem State.note_j (s : State) (x : Exchange) (o : Option TransportOutcome) (rx : Bytes) : (s.note x o rx).j = s.j := rfl
@[simp] theorem State.note_cnt0 (s : State) (x : Exchange) (o : Option TransportOutcome) (rx : Bytes) : (s.note x o rx).cnt0 = s.cnt0 := rfl
@[simp] theorem State.note_cur0 (s : State) (x : Exchange) (o : Option TransportOutcome) (rx : Bytes) : (s.note x o rx).cur0 = s.cur0 := rfl
@[simp] theorem State.note_requests (s : State) (x : Exchange) (o : Option TransportOutcome) (rx : Bytes) : (s.note x o rx).requests = s.requests := rfl
@[simp] theorem State.note_inbox (s : State) (x : Exchange) (o : Option TransportOutcome) (rx : Bytes) : (s.note x o rx).inbox = s.inbox := rfl
@[simp] theorem State.note_response (s : State) (x : Exchange) (o : Option TransportOutcome) (rx : Bytes) : (s.note x o rx).response = s.response := rfl
@[simp] theorem State.note_transport (s : State) (x : Exchange) (o : Option TransportOutcome) (rx : Bytes) : (s.note x o rx).transport = s.transport := rfl
@[simp] theorem State.note_answers (s : State) (x : Exchange) (o : Option TransportOutcome) (rx : Bytes) : (s.note x o rx).answers = s.answers := rfl
@[simp] theorem State.note_exchanges (s : State) (x : Exchange) (o : Option TransportOutcome) (rx : Bytes) : (s.note x o rx).exchanges = s.exchanges ++ [{ tx := x.tx, n := x.n, outcome := o, rx := rx }] := rfl
@[simp] theorem State.note_mem (s : State) (x : Exchange) (o : Option TransportOutcome) (rx : Bytes) : (s.note x o rx).mem = s.mem := rfl
@[simp] theorem State.note_wel (s : State) (x : Exchange) (o : Option TransportOutcome) (rx : Bytes) : (s.note x o rx).wel = s.wel := rfl
@[simp] theorem State.note_protect (s : State) (x : Exchange) (o : Option TransportOutcome) (rx : Bytes) : (s.note x o rx).protect = s.protect := rfl
@[simp] theorem State.note_hold (s : State) (x : Exchange) (o : Option TransportOutcome) (rx : Bytes) : (s.note x o rx).hold = s.hold := rfl
@[simp] theorem State.note_heldFrames (s : State) (x : Exchange) (o : Option TransportOutcome) (rx : Bytes) : (s.note x o rx).heldFrames = s.heldFrames := rfl

/-! ## State.countHeld -/

@[simp] theorem State.countHeld_mode (s : State) : (s.countHeld).mode = s.mode := rfl
@[simp] theorem State.countHeld_count (s : State) : (s.countHeld).count = s.count := rfl
@[simp] theorem State.countHeld_cursor (s : State) : (s.countHeld).cursor = s.cursor := rfl
@[simp] theorem State.countHeld_phase (s : State) : (s.countHeld).phase = s.phase := rfl
@[simp] theorem State.countHeld_hi (s : State) : (s.countHeld).hi = s.hi := rfl
@[simp] theorem State.countHeld_lo (s : State) : (s.countHeld).lo = s.lo := rfl
@[simp] theorem State.countHeld_newCount (s : State) : (s.countHeld).newCount = s.newCount := rfl
@[simp] theorem State.countHeld_newCursor (s : State) : (s.countHeld).newCursor = s.newCursor := rfl
@[simp] theorem State.countHeld_rb (s : State) : (s.countHeld).rb = s.rb := rfl
@[simp] theorem State.countHeld_i (s : State) : (s.countHeld).i = s.i := rfl
@[simp] theorem State.countHeld_j (s : State) : (s.countHeld).j = s.j := rfl
@[simp] theorem State.countHeld_cnt0 (s : State) : (s.countHeld).cnt0 = s.cnt0 := rfl
@[simp] theorem State.countHeld_cur0 (s : State) : (s.countHeld).cur0 = s.cur0 := rfl
@[simp] theorem State.countHeld_requests (s : State) : (s.countHeld).requests = s.requests := rfl
@[simp] theorem State.countHeld_inbox (s : State) : (s.countHeld).inbox = s.inbox := rfl
@[simp] theorem State.countHeld_response (s : State) : (s.countHeld).response = s.response := rfl
@[simp] theorem State.countHeld_transport (s : State) : (s.countHeld).transport = s.transport := rfl
@[simp] theorem State.countHeld_answers (s : State) : (s.countHeld).answers = s.answers := rfl
@[simp] theorem State.countHeld_exchanges (s : State) : (s.countHeld).exchanges = s.exchanges := rfl
@[simp] theorem State.countHeld_mem (s : State) : (s.countHeld).mem = s.mem := rfl
@[simp] theorem State.countHeld_wel (s : State) : (s.countHeld).wel = s.wel := rfl
@[simp] theorem State.countHeld_protect (s : State) : (s.countHeld).protect = s.protect := rfl
@[simp] theorem State.countHeld_hold (s : State) : (s.countHeld).hold = s.hold := rfl
@[simp] theorem State.countHeld_heldFrames (s : State) : (s.countHeld).heldFrames = if s.hold then s.heldFrames + 1 else s.heldFrames := rfl

/-! ## State.release -/

@[simp] theorem State.release_mode (s : State) : (s.release).mode = s.mode := rfl
@[simp] theorem State.release_count (s : State) : (s.release).count = s.count := rfl
@[simp] theorem State.release_cursor (s : State) : (s.release).cursor = s.cursor := rfl
@[simp] theorem State.release_phase (s : State) : (s.release).phase = s.phase := rfl
@[simp] theorem State.release_hi (s : State) : (s.release).hi = s.hi := rfl
@[simp] theorem State.release_lo (s : State) : (s.release).lo = s.lo := rfl
@[simp] theorem State.release_newCount (s : State) : (s.release).newCount = s.newCount := rfl
@[simp] theorem State.release_newCursor (s : State) : (s.release).newCursor = s.newCursor := rfl
@[simp] theorem State.release_rb (s : State) : (s.release).rb = s.rb := rfl
@[simp] theorem State.release_i (s : State) : (s.release).i = s.i := rfl
@[simp] theorem State.release_j (s : State) : (s.release).j = s.j := rfl
@[simp] theorem State.release_cnt0 (s : State) : (s.release).cnt0 = s.cnt0 := rfl
@[simp] theorem State.release_cur0 (s : State) : (s.release).cur0 = s.cur0 := rfl
@[simp] theorem State.release_requests (s : State) : (s.release).requests = s.requests := rfl
@[simp] theorem State.release_inbox (s : State) : (s.release).inbox = s.inbox := rfl
@[simp] theorem State.release_response (s : State) : (s.release).response = s.response := rfl
@[simp] theorem State.release_transport (s : State) : (s.release).transport = none := rfl
@[simp] theorem State.release_answers (s : State) : (s.release).answers = s.answers := rfl
@[simp] theorem State.release_exchanges (s : State) : (s.release).exchanges = s.exchanges := rfl
@[simp] theorem State.release_mem (s : State) : (s.release).mem = s.mem := rfl
@[simp] theorem State.release_wel (s : State) : (s.release).wel = s.wel := rfl
@[simp] theorem State.release_protect (s : State) : (s.release).protect = s.protect := rfl
@[simp] theorem State.release_hold (s : State) : (s.release).hold = s.hold := rfl
@[simp] theorem State.release_heldFrames (s : State) : (s.release).heldFrames = s.heldFrames := rfl

/-! ## State.accept -/

@[simp] theorem State.accept_mode (s : State) (c : Instr) : (s.accept c).mode = s.mode := rfl
@[simp] theorem State.accept_count (s : State) (c : Instr) : (s.accept c).count = s.count := rfl
@[simp] theorem State.accept_cursor (s : State) (c : Instr) : (s.accept c).cursor = s.cursor := rfl
@[simp] theorem State.accept_phase (s : State) (c : Instr) : (s.accept c).phase = .run c .start := rfl
@[simp] theorem State.accept_hi (s : State) (c : Instr) : (s.accept c).hi = s.hi := rfl
@[simp] theorem State.accept_lo (s : State) (c : Instr) : (s.accept c).lo = s.lo := rfl
@[simp] theorem State.accept_newCount (s : State) (c : Instr) : (s.accept c).newCount = s.newCount := rfl
@[simp] theorem State.accept_newCursor (s : State) (c : Instr) : (s.accept c).newCursor = s.newCursor := rfl
@[simp] theorem State.accept_rb (s : State) (c : Instr) : (s.accept c).rb = s.rb := rfl
@[simp] theorem State.accept_i (s : State) (c : Instr) : (s.accept c).i = s.i := rfl
@[simp] theorem State.accept_j (s : State) (c : Instr) : (s.accept c).j = s.j := rfl
@[simp] theorem State.accept_cnt0 (s : State) (c : Instr) : (s.accept c).cnt0 = s.cnt0 := rfl
@[simp] theorem State.accept_cur0 (s : State) (c : Instr) : (s.accept c).cur0 = s.cur0 := rfl
@[simp] theorem State.accept_requests (s : State) (c : Instr) : (s.accept c).requests = s.requests := rfl
@[simp] theorem State.accept_inbox (s : State) (c : Instr) : (s.accept c).inbox = s.inbox := rfl
@[simp] theorem State.accept_response (s : State) (c : Instr) : (s.accept c).response = s.response := rfl
@[simp] theorem State.accept_transport (s : State) (c : Instr) : (s.accept c).transport = s.transport := rfl
@[simp] theorem State.accept_answers (s : State) (c : Instr) : (s.accept c).answers = s.answers := rfl
@[simp] theorem State.accept_exchanges (s : State) (c : Instr) : (s.accept c).exchanges = s.exchanges := rfl
@[simp] theorem State.accept_mem (s : State) (c : Instr) : (s.accept c).mem = s.mem := rfl
@[simp] theorem State.accept_wel (s : State) (c : Instr) : (s.accept c).wel = s.wel := rfl
@[simp] theorem State.accept_protect (s : State) (c : Instr) : (s.accept c).protect = s.protect := rfl
@[simp] theorem State.accept_hold (s : State) (c : Instr) : (s.accept c).hold = s.hold := rfl
@[simp] theorem State.accept_heldFrames (s : State) (c : Instr) : (s.accept c).heldFrames = s.heldFrames := rfl

/-! ## State.powerCycle -/

@[simp] theorem State.powerCycle_mode (s : State) (w : Bool) : (s.powerCycle w).mode = .uninit := rfl
@[simp] theorem State.powerCycle_count (s : State) (w : Bool) : (s.powerCycle w).count = 0 := rfl
@[simp] theorem State.powerCycle_cursor (s : State) (w : Bool) : (s.powerCycle w).cursor = 0 := rfl
@[simp] theorem State.powerCycle_phase (s : State) (w : Bool) : (s.powerCycle w).phase = .idle := rfl
@[simp] theorem State.powerCycle_hi (s : State) (w : Bool) : (s.powerCycle w).hi = 0 := rfl
@[simp] theorem State.powerCycle_lo (s : State) (w : Bool) : (s.powerCycle w).lo = 0 := rfl
@[simp] theorem State.powerCycle_newCount (s : State) (w : Bool) : (s.powerCycle w).newCount = 0 := rfl
@[simp] theorem State.powerCycle_newCursor (s : State) (w : Bool) : (s.powerCycle w).newCursor = 0 := rfl
@[simp] theorem State.powerCycle_rb (s : State) (w : Bool) : (s.powerCycle w).rb = 0 := rfl
@[simp] theorem State.powerCycle_i (s : State) (w : Bool) : (s.powerCycle w).i = 0 := rfl
@[simp] theorem State.powerCycle_j (s : State) (w : Bool) : (s.powerCycle w).j = 0 := rfl
@[simp] theorem State.powerCycle_cnt0 (s : State) (w : Bool) : (s.powerCycle w).cnt0 = 0 := rfl
@[simp] theorem State.powerCycle_cur0 (s : State) (w : Bool) : (s.powerCycle w).cur0 = 0 := rfl
@[simp] theorem State.powerCycle_requests (s : State) (w : Bool) : (s.powerCycle w).requests = [] := rfl
@[simp] theorem State.powerCycle_inbox (s : State) (w : Bool) : (s.powerCycle w).inbox = s.inbox := rfl
@[simp] theorem State.powerCycle_response (s : State) (w : Bool) : (s.powerCycle w).response = [] := rfl
@[simp] theorem State.powerCycle_transport (s : State) (w : Bool) : (s.powerCycle w).transport = none := rfl
@[simp] theorem State.powerCycle_answers (s : State) (w : Bool) : (s.powerCycle w).answers = s.answers := rfl
@[simp] theorem State.powerCycle_exchanges (s : State) (w : Bool) : (s.powerCycle w).exchanges = s.exchanges := rfl
@[simp] theorem State.powerCycle_mem (s : State) (w : Bool) : (s.powerCycle w).mem = s.mem := rfl
@[simp] theorem State.powerCycle_wel (s : State) (w : Bool) : (s.powerCycle w).wel = w := rfl
@[simp] theorem State.powerCycle_protect (s : State) (w : Bool) : (s.powerCycle w).protect = s.protect := rfl
@[simp] theorem State.powerCycle_hold (s : State) (w : Bool) : (s.powerCycle w).hold = s.hold := rfl
@[simp] theorem State.powerCycle_heldFrames (s : State) (w : Bool) : (s.powerCycle w).heldFrames = s.heldFrames := rfl

end Sys2Proof.Machine
end

