-- ==== Sys2Proof/Laws/Frames.lean ====
section
/-! SUPPORT. What the default decoder reads from the block's four frames, and what a frame can do at the medium. -/

namespace Sys2Proof.Machine

/-! ## Decoding the block's own frames -/

@[simp] theorem frameAddr_split (a : Word) : frameAddr (addrHi a) (addrLo a) = a := hiByte_append_loByte a

theorem takeAddress_zeros (k : Nat) (a : Word) (rest : Bytes) :
    takeAddress k (List.replicate k 0 ++ addrHi a :: addrLo a :: rest) = .ok (a, rest) := by
  induction k with
  | zero => simp [takeAddress]
  | succ k ih => simpa [takeAddress, List.replicate_succ] using ih

/-- The address bytes of a frame give the address back (R95). -/
@[simp] theorem takeAddress_addressBytes (P : Params) (a : Word) (rest : Bytes) :
    takeAddress (P.addrBytes - 2) (addressBytes P a ++ rest) = .ok (a, rest) := by
  simpa [addressBytes] using takeAddress_zeros (P.addrBytes - 2) a rest

/-- What an address is taken from begins with that address's own bytes. -/
theorem takeAddress_ok {k : Nat} {ops rest : Bytes} {a : Word} (h : takeAddress k ops = .ok (a, rest)) :
    ops = List.replicate k 0 ++ addrHi a :: addrLo a :: rest := by
  induction k generalizing ops with
  | zero =>
    match ops, h with
    | hi :: lo :: rest', h =>
      simp only [takeAddress, Except.ok.injEq, Prod.mk.injEq] at h
      obtain ⟨rfl, rfl⟩ := h
      simp only [frameAddr, List.replicate_zero, List.nil_append, List.cons.injEq, and_true]
      exact ⟨(hiByte_append hi lo).symm, (loByte_append hi lo).symm⟩
  | succ k ih =>
    match ops, h with
    | b :: rest', h =>
      simp only [takeAddress] at h
      split at h
      · next hb => simp [List.replicate_succ, hb, ih h]
      · cases h

@[simp] theorem decodeFrame_wren :
    decodeFrame Config.params (oneByteFrame Config.params.opcodes.wren) = .ok .mediumWren := rfl

@[simp] theorem decodeFrame_wrdi :
    decodeFrame Config.params (oneByteFrame Config.params.opcodes.wrdi) = .ok .mediumWrdi := rfl

@[simp] theorem decodeFrame_readOne (a : Word) :
    decodeFrame Config.params (readFrame Config.params a 1) = .ok (.mediumRead a 1) := by
  simp [decodeFrame, readFrame, addressBytes, takeAddress, Config.params]

@[simp] theorem decodeFrame_readTwo (a : Word) :
    decodeFrame Config.params (readFrame Config.params a 2) = .ok (.mediumRead a 2) := by
  simp [decodeFrame, readFrame, addressBytes, takeAddress, Config.params]

@[simp] theorem decodeFrame_write (a : Word) (d : Byte) :
    decodeFrame Config.params (writeFrame Config.params a d) = .ok (.mediumWrite a d) := by
  simp [decodeFrame, writeFrame, addressBytes, takeAddress, Config.params]

/-! ## The medium's operations -/

/-- Fields an operation of the medium may touch: the content and the latch. -/
def MediumOnly (s t : State) : Prop := t = { s with mem := t.mem, wel := t.wel }

@[simp] theorem MediumOnly.refl (s : State) : MediumOnly s s := rfl

theorem mediumLatch_only (v : Bool) (f : Fate) (s : State) : MediumOnly s (mediumLatch v f s) := by
  cases f <;> rfl

@[simp] theorem mediumLatch_mem (v : Bool) (f : Fate) (s : State) : (mediumLatch v f s).mem = s.mem := by
  cases f <;> rfl

/-- A READ that answers did not pass the end of the medium; it sends the medium's bytes, or any bytes if the medium is
held. -/
theorem mediumReadAt_ok {P : Params} {a : Word} {n : Nat} {f : Fate} {s : State} {rx : Bytes}
    (h : mediumReadAt P a n f s = .ok rx) :
    a.toNat + n ≤ P.mediumBytes ∧
    (rx = Mem.readBytes P.eraseValue s.mem a.toNat n ∨ s.hold = true ∧ ∃ b0 b1, f = .delivers b0 b1 ∧ rx = [b0, b1].take n) := by
  unfold mediumReadAt at h
  split at h
  · next hle =>
    refine ⟨hle, ?_⟩
    cases f <;> simp only [Except.ok.injEq] at h <;> subst h <;> try exact .inl rfl
    next b0 b1 =>
      by_cases hh : s.hold = true
      · exact .inr ⟨hh, b0, b1, rfl, by simp [hh]⟩
      · exact .inl (by simp [hh])
  · cases h

/-- With "hold" inactive a READ inside the medium sends the medium's bytes, whatever its fate (R66). -/
theorem mediumReadAt_unheld {P : Params} {a : Word} {n : Nat} (f : Fate) {s : State} (hh : s.hold = false)
    (hle : a.toNat + n ≤ P.mediumBytes) :
    mediumReadAt P a n f s = .ok (Mem.readBytes P.eraseValue s.mem a.toNat n) := by
  cases f <;> simp [mediumReadAt, hh, hle]

/-- A WRITE that answers did not pass the end of the medium; it stored nothing, or one byte at its address, the latter
only into a writable medium. -/
theorem mediumWriteAt_ok {P : Params} {a : Word} {d : Byte} {f : Fate} {s t : State}
    (h : mediumWriteAt P a d f s = .ok t) :
    a.toNat < P.mediumBytes ∧ MediumOnly s t ∧
    (t.mem = s.mem ∨ s.writable = true ∧ ∃ b, t.mem = Mem.write P.eraseValue s.mem a.toNat b) := by
  unfold mediumWriteAt at h
  split at h
  · next hlt =>
    refine ⟨hlt, ?_⟩
    cases f <;> simp only [Except.ok.injEq] at h <;> subst h <;> refine ⟨rfl, ?_⟩ <;>
      first
      | exact .inl rfl
      | (by_cases hw : s.writable = true
         · exact .inr ⟨hw, _, by simp only [hw, if_true]; rfl⟩
         · exact .inl (by simp [hw]))
  · cases h

/-- Everything a frame can do at the medium. -/
theorem mediumFrame_ok {P : Params} {i : Instr} {f : Fate} {s t : State} {rx : Bytes}
    (h : mediumFrame P i f s = .ok (rx, t)) :
    MediumOnly s t ∧
    ((∃ v, (i = .mediumWren ∨ i = .mediumWrdi) ∧ t = mediumLatch v f s ∧ rx = []) ∨
     (∃ a n, i = .mediumRead a n ∧ t = s ∧ mediumReadAt P a n f s = .ok rx) ∨
     (∃ a d, i = .mediumWrite a d ∧ mediumWriteAt P a d f s = .ok t ∧ rx = [])) := by
  cases i <;> simp only [mediumFrame] at h <;> try cases h
  · exact ⟨mediumLatch_only .., .inl ⟨true, .inl rfl, rfl, rfl⟩⟩
  · exact ⟨mediumLatch_only .., .inl ⟨false, .inr rfl, rfl, rfl⟩⟩
  · next a n =>
    split at h
    · cases h
    · next rx' hr =>
      cases h
      exact ⟨rfl, .inr (.inl ⟨a, n, rfl, rfl, hr⟩)⟩
  · next a d =>
    split at h
    · cases h
    · next t' hw =>
      cases h
      exact ⟨(mediumWriteAt_ok hw).2.1, .inr (.inr ⟨a, d, rfl, hw, rfl⟩)⟩

/-- A frame keeps the medium's content in canonical form and inside the medium. -/
theorem mediumFrame_mediumOk {P : Params} {i : Instr} {f : Fate} {s t : State} {rx : Bytes}
    (h : mediumFrame P i f s = .ok (rx, t)) (hw : Mem.wf P.eraseValue s.mem = true)
    (hn : Mem.within P.mediumBytes s.mem = true) :
    Mem.wf P.eraseValue t.mem = true ∧ Mem.within P.mediumBytes t.mem = true := by
  obtain ⟨-, ⟨v, -, rfl, -⟩ | ⟨a, n, -, rfl, -⟩ | ⟨a, d, -, hwr, -⟩⟩ := mediumFrame_ok h
  · simp [hw, hn]
  · exact ⟨hw, hn⟩
  · obtain ⟨hlt, -, hm | ⟨-, b, hm⟩⟩ := mediumWriteAt_ok hwr
    · rw [hm]; exact ⟨hw, hn⟩
    · rw [hm]; exact ⟨Mem.wf_write _ _ hw, Mem.within_write hn hlt⟩

/-- Everything a loss of power can do to the medium's bytes. -/
theorem interruptedFrame_ok {P : Params} {i : Instr} {b : Byte} {s t : State}
    (h : interruptedFrame P i b s = .ok t) :
    t = s ∨ ∃ a d, i = .mediumWrite a d ∧ a.toNat < P.mediumBytes ∧
      t = { s with mem := Mem.write P.eraseValue s.mem a.toNat b } := by
  cases i <;> simp only [interruptedFrame] at h <;> try (cases h; exact .inl rfl)
  next a d =>
    split at h
    · next hlt => cases h; exact .inr ⟨a, d, rfl, hlt, rfl⟩
    · cases h

/-! ## A frame executed on its own -/

/-- Everything a frame executed on its own can do. -/
theorem carryOut_next {P : Params} {i : Instr} {s t : State} (h : carryOut P i s = .next t) :
    ∃ x rx u, encode P i = .exchange x ∧ mediumFrame P i s.outsideFate s = .ok (rx, u) ∧
      t = u.countHeld.note x (some .ok) rx := by
  unfold carryOut at h
  split at h
  · cases h
  · next x hx =>
    split at h
    · cases h
    · next rx u hm => cases h; exact ⟨x, rx, u, hx, hm, rfl⟩

@[simp] theorem outsideFate_unheld {s : State} (hh : s.hold = false) : s.outsideFate = .done := by
  simp [State.outsideFate, hh]

@[simp] theorem countHeld_unheld {s : State} (hh : s.hold = false) : s.countHeld = s := by
  cases s
  simp_all [State.countHeld]

end Sys2Proof.Machine
end

