-- ==== Sys2Proof/Laws/PerInstr.lean ====
section
/-! SUPPORT. Facts that hold of each instruction as syntax, one lemma per constructor. -/

namespace Sys2Proof.Laws.Layout

open Sys2Proof.Machine

/-- What carries `i`: a host command is a word with `RSV` zero and an `OP` of R81; a medium frame has the length R98
tells from its first byte, and receives bytes only if it is a READ. -/
def Statement (i : Instr) : Prop :=
  ∀ P : Params, P.Legal →
    match encode P i with
    | .command w => IsCommand i = true ∧ cmdRsv w = 0 ∧ 1 ≤ (cmdOp w).toNat ∧ (cmdOp w).toNat ≤ 6
    | .exchange x =>
      IsCommand i = false ∧ (∃ op rest, x.tx = op :: rest ∧ frameLength P op = some x.tx.length) ∧
      (x.n ≠ 0 → ∃ a n, i = .mediumRead a n)

/-- The lengths of R98, by opcode. -/
theorem frameLength_read (P : Params) : frameLength P P.opcodes.read = some (1 + P.addrBytes) := by simp [frameLength]

theorem legal_addrBytes_nodup {P : Params} (h : P.Legal) : 2 ≤ P.addrBytes ∧ P.opcodes.toList.Nodup := by
  obtain ⟨_, _, _, _, _, _, _, _, _, _, _, _, _, _, _, _, _, _, _, _, _, _, h⟩ := h
  exact h

theorem legal_nodup {P : Params} (h : P.Legal) : P.opcodes.toList.Nodup := (legal_addrBytes_nodup h).2

theorem addressBytes_length {P : Params} (h : P.Legal) (a : Word) : (addressBytes P a).length = P.addrBytes := by
  have := (legal_addrBytes_nodup h).1
  simp [addressBytes]
  omega

theorem frameLength_write {P : Params} (h : P.Legal) : frameLength P P.opcodes.write = some (2 + P.addrBytes) := by
  have := legal_nodup h
  simp only [Opcodes.toList, List.nodup_cons, List.mem_cons, List.not_mem_nil, or_false, not_or] at this
  simp [frameLength]
  grind

theorem frameLength_one {P : Params} (h : P.Legal) {op : Byte}
    (hop : op ∈ [P.opcodes.wren, P.opcodes.wrdi, P.opcodes.rdsr, P.opcodes.wrsr, P.opcodes.fastRead, P.opcodes.sleep,
      P.opcodes.rdid]) : frameLength P op = some 1 := by
  have := legal_nodup h
  simp only [Opcodes.toList, List.nodup_cons, List.mem_cons, List.not_mem_nil, or_false, not_or] at this hop
  simp only [frameLength, Opcodes.toList, List.mem_cons]
  grind

theorem init : Statement .init := fun _ _ => ⟨rfl, cmdRsv_commandWord .., by decide, by decide⟩
theorem append (level thread : Byte) (code : Word) : Statement (.append level thread code) := fun _ _ =>
  ⟨rfl, cmdRsv_commandWord .., by rw [cmdOp_commandWord]; decide, by rw [cmdOp_commandWord]; decide⟩
theorem lastRecord : Statement .lastRecord := fun _ _ => ⟨rfl, cmdRsv_commandWord .., by decide, by decide⟩
theorem recordAt (i : Word) : Statement (.recordAt i) := fun _ _ =>
  ⟨rfl, cmdRsv_commandWord .., by rw [cmdOp_commandWord]; decide, by rw [cmdOp_commandWord]; decide⟩
theorem traverseOldest : Statement .traverseOldest := fun _ _ => ⟨rfl, cmdRsv_commandWord .., by decide, by decide⟩
theorem traverseNewest : Statement .traverseNewest := fun _ _ => ⟨rfl, cmdRsv_commandWord .., by decide, by decide⟩
theorem mediumWren : Statement .mediumWren := fun _ h =>
  ⟨rfl, ⟨_, _, rfl, frameLength_one h (by simp)⟩, fun hn => absurd rfl hn⟩
theorem mediumWrdi : Statement .mediumWrdi := fun _ h =>
  ⟨rfl, ⟨_, _, rfl, frameLength_one h (by simp)⟩, fun hn => absurd rfl hn⟩
theorem mediumRead (a : Word) (n : Nat) : Statement (.mediumRead a n) := fun P h =>
  ⟨rfl, ⟨_, _, rfl, by simp [frameLength_read, readFrame, addressBytes_length h, Nat.add_comm]⟩, fun _ => ⟨a, n, rfl⟩⟩
theorem mediumWrite (a : Word) (d : Byte) : Statement (.mediumWrite a d) := fun P h =>
  ⟨rfl, ⟨_, _, rfl, by simp [frameLength_write h, writeFrame, addressBytes_length h]; omega⟩, fun hn => absurd rfl hn⟩
theorem mediumRdsr : Statement .mediumRdsr := fun _ h =>
  ⟨rfl, ⟨_, _, rfl, frameLength_one h (by simp)⟩, fun hn => absurd rfl hn⟩
theorem mediumWrsr : Statement .mediumWrsr := fun _ h =>
  ⟨rfl, ⟨_, _, rfl, frameLength_one h (by simp)⟩, fun hn => absurd rfl hn⟩
theorem mediumFastRead : Statement .mediumFastRead := fun _ h =>
  ⟨rfl, ⟨_, _, rfl, frameLength_one h (by simp)⟩, fun hn => absurd rfl hn⟩
theorem mediumSleep : Statement .mediumSleep := fun _ h =>
  ⟨rfl, ⟨_, _, rfl, frameLength_one h (by simp)⟩, fun hn => absurd rfl hn⟩
theorem mediumRdid : Statement .mediumRdid := fun _ h =>
  ⟨rfl, ⟨_, _, rfl, frameLength_one h (by simp)⟩, fun hn => absurd rfl hn⟩

end Sys2Proof.Laws.Layout
end

