-- ==== Sys2Proof/Laws/Sequencer.lean ====
section
/-! SUPPORT. What each part of the sequencer can do: going to a step, the step after an exchange, an exchange, a run of
exchanges, a command. Later proofs cite these instead of unfolding the parts. -/

namespace Sys2Proof.Machine

variable {P : Params} {c : Instr} {k : Position} {s t : State}

@[simp] theorem outcomeOf_next {r : Except Fault State} : outcomeOf r = .next t ↔ r = .ok t := by
  cases r <;> simp [outcomeOf]

@[simp] theorem outcomeOf_fault {r : Except Fault State} {e : Fault} : outcomeOf r = .fault e ↔ r = .error e := by
  cases r <;> simp [outcomeOf]

/-! ## Going to a step -/

/-- Going to a step changes PHASE and the transport channel, which then carries the step's exchange. -/
theorem issue_ok (h : issue P c k s = .ok t) :
    ∃ x, exchangeAt P c k s = .ok x ∧ t = { s with phase := .run c k, transport := some x } := by
  unfold issue at h
  split at h
  · cases h
  · next x hx => cases h; exact ⟨x, hx, rfl⟩

theorem issue_of_exchangeAt {x : Exchange} (h : exchangeAt P c k s = .ok x) :
    issue P c k s = .ok { s with phase := .run c k, transport := some x } := by simp [issue, h]

/-- The exchange of a step does not depend on where the sequencer and its channels are. -/
@[simp] theorem exchangeAt_channels (p : Phase) (x : Option Exchange) (r : List Beat) (as : List Answer)
    (es : List ExchangeRecord) (m : Mem) (w : Bool) :
    exchangeAt P c k
      { s with phase := p, transport := x, response := r, answers := as, exchanges := es, mem := m, wel := w } =
    exchangeAt P c k s := by
  cases k <;> rfl

/-- Beginning a write: `J` is 0 and the WREN of byte 0 is in progress. -/
theorem startWrite_ok {job : WriteJob} (h : startWrite P c job s = .ok t) :
    ∃ x, exchangeAt P c (.write job .wren) { s with j := 0 } = .ok x ∧
      t = { s with j := 0, phase := .run c (.write job .wren), transport := some x } := issue_ok h

/-! ## The step after an exchange -/

/-- What no step of the block touches: the outside inputs, the record, the medium. -/
structure Keeps (s t : State) : Prop where
  requests : t.requests = s.requests
  inbox : t.inbox = s.inbox
  answers : t.answers = s.answers
  exchanges : t.exchanges = s.exchanges
  mem : t.mem = s.mem
  wel : t.wel = s.wel
  protect : t.protect = s.protect
  hold : t.hold = s.hold
  heldFrames : t.heldFrames = s.heldFrames

theorem Keeps.refl (s : State) : Keeps s s := ⟨rfl, rfl, rfl, rfl, rfl, rfl, rfl, rfl, rfl⟩

theorem Keeps.trans {s t u : State} (h : Keeps s t) (h' : Keeps t u) : Keeps s u :=
  ⟨h'.1.trans h.1, h'.2.trans h.2, h'.3.trans h.3, h'.4.trans h.4, h'.5.trans h.5, h'.6.trans h.6, h'.7.trans h.7,
    h'.8.trans h.8, h'.9.trans h.9⟩

/-- `Keeps` through a change of fields it does not speak of. -/
theorem Keeps.after {s t u : State} (h : Keeps u t) (h' : Keeps s u) : Keeps s t := h'.trans h

theorem issue_keeps (h : issue P c k s = .ok t) : Keeps s t := by
  obtain ⟨x, -, rfl⟩ := issue_ok h
  exact ⟨rfl, rfl, rfl, rfl, rfl, rfl, rfl, rfl, rfl⟩

theorem startWrite_keeps {job : WriteJob} (h : startWrite P c job s = .ok t) : Keeps s t := by
  obtain ⟨x, -, rfl⟩ := startWrite_ok h
  exact ⟨rfl, rfl, rfl, rfl, rfl, rfl, rfl, rfl, rfl⟩

theorem finish_keeps (s : State) (st : Status) (r : Word) : Keeps s (s.finish st r) := ⟨rfl, rfl, rfl, rfl, rfl, rfl, rfl, rfl, rfl⟩

theorem raise_keeps (s : State) (st : Status) : Keeps s (s.raise st) := finish_keeps s st 0

theorem checkCursorValue_keeps (h : checkCursorValue P s = .ok t) : Keeps s t := by
  unfold checkCursorValue at h
  split at h
  · cases h; exact ⟨rfl, rfl, rfl, rfl, rfl, rfl, rfl, rfl, rfl⟩
  · exact startWrite_keeps h

theorem checkCountValue_keeps (h : checkCountValue P s = .ok t) : Keeps s t := by
  unfold checkCountValue at h
  split at h
  · exact checkCursorValue_keeps h
  · exact startWrite_keeps h

theorem gotCount_keeps {b0 b1 : Byte} (h : gotCount P b0 b1 s = .ok t) : Keeps s t :=
  Keeps.trans (t := { s with cnt0 := unmeta16 P b0 b1 }) ⟨rfl, rfl, rfl, rfl, rfl, rfl, rfl, rfl, rfl⟩ (issue_keeps h)

theorem gotCursor_keeps {b0 b1 : Byte} (h : gotCursor P b0 b1 s = .ok t) : Keeps s t :=
  Keeps.trans (t := { s with cur0 := unmeta16 P b0 b1 }) ⟨rfl, rfl, rfl, rfl, rfl, rfl, rfl, rfl, rfl⟩ (checkCountValue_keeps h)

theorem fixedCount_keeps (h : fixedCount P s = .ok t) : Keeps s t :=
  Keeps.trans (t := { s with cnt0 := 0 }) ⟨rfl, rfl, rfl, rfl, rfl, rfl, rfl, rfl, rfl⟩ (checkCursorValue_keeps h)

theorem wrotePayload_keeps (h : wrotePayload P c s = .ok t) : Keeps s t := by
  unfold wrotePayload at h
  split at h
  · cases h
  · exact Keeps.after (startWrite_keeps h) ⟨rfl, rfl, rfl, rfl, rfl, rfl, rfl, rfl, rfl⟩

theorem wroteCount_keeps (h : wroteCount P c s = .ok t) : Keeps s t := by
  unfold wroteCount at h
  split at h
  · cases h
  · exact Keeps.after (startWrite_keeps h) ⟨rfl, rfl, rfl, rfl, rfl, rfl, rfl, rfl, rfl⟩

theorem afterJob_keeps {job : WriteJob} (h : afterJob P c job s = .ok t) : Keeps s t := by
  cases job <;> simp only [afterJob] at h
  · exact wrotePayload_keeps h
  · exact wroteCount_keeps h
  · cases h; exact ⟨rfl, rfl, rfl, rfl, rfl, rfl, rfl, rfl, rfl⟩
  · exact fixedCount_keeps h
  · cases h; exact ⟨rfl, rfl, rfl, rfl, rfl, rfl, rfl, rfl, rfl⟩

theorem afterReadBack_keeps {job : WriteJob} {b : Byte} (h : afterReadBack P c job b s = .ok t) : Keeps s t := by
  unfold afterReadBack at h
  split at h
  · cases h
  · simp only at h
    split at h
    · split at h
      · exact Keeps.after (issue_keeps h) ⟨rfl, rfl, rfl, rfl, rfl, rfl, rfl, rfl, rfl⟩
      · exact Keeps.trans (t := { s with rb := b }) ⟨rfl, rfl, rfl, rfl, rfl, rfl, rfl, rfl, rfl⟩ (afterJob_keeps h)
    · cases h; exact ⟨rfl, rfl, rfl, rfl, rfl, rfl, rfl, rfl, rfl⟩

theorem afterRecord_keeps {b0 b1 : Byte} (h : afterRecord P c b0 b1 s = .ok t) : Keeps s t := by
  cases c <;> simp only [afterRecord, gotOldest, gotNewest] at h <;> try cases h
  · exact finish_keeps ..
  · exact finish_keeps ..
  · split at h
    · cases h
    · split at h
      · exact Keeps.after (issue_keeps h) ⟨rfl, rfl, rfl, rfl, rfl, rfl, rfl, rfl, rfl⟩
      · cases h; exact ⟨rfl, rfl, rfl, rfl, rfl, rfl, rfl, rfl, rfl⟩
  · split at h
    · exact Keeps.after (issue_keeps h) ⟨rfl, rfl, rfl, rfl, rfl, rfl, rfl, rfl, rfl⟩
    · cases h; exact ⟨rfl, rfl, rfl, rfl, rfl, rfl, rfl, rfl, rfl⟩

/-- A two-byte read raises its status, or goes on with its two bytes. -/
theorem afterRead2_ok {st : Status} {rx : Bytes} {f : Byte → Byte → State → Except Fault State}
    (h : afterRead2 st rx s f = .ok t) :
    (st ≠ .ok ∧ t = s.raise st) ∨ (st = .ok ∧ ∃ b0 b1, rx = [b0, b1] ∧ f b0 b1 s = .ok t) := by
  unfold afterRead2 at h
  split at h
  · next hst => cases h; exact .inl ⟨hst, rfl⟩
  · next hst =>
    refine .inr ⟨not_not.mp hst, ?_⟩
    split at h
    · next b0 b1 => exact ⟨b0, b1, rfl, h⟩
    · cases h

/-- No step of the block touches the inputs, the record or the medium: only exchanges do. -/
theorem afterExchange_keeps {st : Status} {rx : Bytes} (h : afterExchange P c k st rx s = .ok t) : Keeps s t := by
  unfold afterExchange at h
  split at h
  · cases h
  · obtain ⟨-, rfl⟩ | ⟨-, b0, b1, -, h⟩ := afterRead2_ok h
    · exact raise_keeps ..
    · exact gotCount_keeps h
  · obtain ⟨-, rfl⟩ | ⟨-, b0, b1, -, h⟩ := afterRead2_ok h
    · exact raise_keeps ..
    · exact gotCursor_keeps h
  · obtain ⟨-, rfl⟩ | ⟨-, b0, b1, -, h⟩ := afterRead2_ok h
    · exact raise_keeps ..
    · exact afterRecord_keeps h
  · split at h
    · cases h; exact raise_keeps ..
    · split at h
      · exact afterReadBack_keeps h
      · cases h
  · split at h
    · exact issue_keeps h
    · cases h; exact raise_keeps ..

/-! ## One exchange -/

/-- Everything an exchange can be: the frame in progress is one the medium knows; then either power is lost, and the
block is reset, or the medium does what the frame's fate says and the block goes on with the outcome. -/
theorem completeExchange_ok {a : Answer} (h : completeExchange P c k a s = .ok t) :
    ∃ x i, s.transport = some x ∧ decodeFrame P x = .ok i ∧
      ((∃ b w u, a = .powerLoss b w ∧ interruptedFrame P i b s = .ok u ∧ t = (u.note x none []).powerCycle w) ∨
       (∃ o f rx u, a = .returns o f ∧ mediumFrame P i f s = .ok (rx, u) ∧
          afterExchange P c k o.status (if o = .ok then rx else [])
            (u.note x (some o) (if o = .ok then rx else [])).release = .ok t)) := by
  unfold completeExchange at h
  split at h
  · cases h
  · next x hx =>
    split at h
    · cases h
    · next i hi =>
      refine ⟨x, i, hx, hi, ?_⟩
      split at h
      · next b w =>
        split at h
        · cases h
        · next u hu => cases h; exact .inl ⟨b, w, u, rfl, hu, rfl⟩
      · next o f =>
        split at h
        · cases h
        · next rx u hm => exact .inr ⟨o, f, rx, u, rfl, hm, h⟩

/-- The step of a completed exchange, from its parts. -/
theorem completeExchange_returns {x : Exchange} {i : Instr} {o : TransportOutcome} {f : Fate} {rx : Bytes} {u : State}
    (hx : s.transport = some x) (hi : decodeFrame P x = .ok i)
    (hm : mediumFrame P i f s = .ok (rx, u)) :
    completeExchange P c k (.returns o f) s =
      afterExchange P c k o.status (if o = .ok then rx else [])
        (u.note x (some o) (if o = .ok then rx else [])).release := by
  simp [completeExchange, hx, hi, hm]

/-- An exchange adds one entry to the record; the answers, the inbox and the inputs stand. -/
theorem completeExchange_channels {a : Answer} (h : completeExchange P c k a s = .ok t) :
    t.answers = s.answers ∧ t.inbox = s.inbox ∧ t.protect = s.protect ∧ t.hold = s.hold ∧
    t.heldFrames = s.heldFrames ∧
    ∃ x o rx, s.transport = some x ∧
      t.exchanges = s.exchanges ++ [{ tx := x.tx, n := x.n, outcome := o, rx := rx }] := by
  obtain ⟨x, i, hx, -, ⟨b, w, u, -, hu, rfl⟩ | ⟨o, f, rx, u, -, hm, ha⟩⟩ := completeExchange_ok h
  · obtain rfl | ⟨a, d, -, -, rfl⟩ := interruptedFrame_ok hu
    · exact ⟨rfl, rfl, rfl, rfl, rfl, x, none, [], hx, rfl⟩
    · exact ⟨rfl, rfl, rfl, rfl, rfl, x, none, [], hx, rfl⟩
  · have hk := afterExchange_keeps ha
    have hu : MediumOnly s u := (mediumFrame_ok hm).1
    rw [MediumOnly] at hu
    have he := hk.exchanges
    simp only [State.release_exchanges, State.note_exchanges] at he
    refine ⟨?_, ?_, ?_, ?_, ?_, x, some o, if o = .ok then rx else [], hx, ?_⟩
    · rw [hk.answers, State.release_answers, State.note_answers, hu]
    · rw [hk.inbox, State.release_inbox, State.note_inbox, hu]
    · rw [hk.protect, State.release_protect, State.note_protect, hu]
    · rw [hk.hold, State.release_hold, State.note_hold, hu]
    · rw [hk.heldFrames, State.release_heldFrames, State.note_heldFrames, hu]
    · rw [he, hu]

/-- An exchange that does not lose power leaves the waiting requests. -/
theorem completeExchange_requests {o : TransportOutcome} {f : Fate} (h : completeExchange P c k (.returns o f) s = .ok t) :
    t.requests = s.requests := by
  obtain ⟨x, i, -, -, ⟨b, w, u, ha, -⟩ | ⟨o', f', rx, u, -, hm, ha⟩⟩ := completeExchange_ok h
  · cases ha
  · have hu : MediumOnly s u := (mediumFrame_ok hm).1
    rw [MediumOnly] at hu
    rw [(afterExchange_keeps ha).requests, State.release_requests, State.note_requests, hu]

/-! ## A run of exchanges -/

@[simp] theorem runAnswers_nil : runAnswers P [] s = .ok s := rfl

theorem runAnswers_idle {as : List Answer} (h : s.phase = .idle) : runAnswers P as s = .ok s := by
  cases as <;> simp [runAnswers, h]

theorem runAnswers_cons {a : Answer} {rest : List Answer} (h : s.phase = .run c k) :
    runAnswers P (a :: rest) s =
      match completeExchange P c k a { s with answers := rest } with
      | .error e => .error e
      | .ok t => runAnswers P rest t := by
  conv_lhs => unfold runAnswers
  split
  · next hp => cases hp.symm.trans h
  · next c' k' hp => cases hp.symm.trans h; cases completeExchange P c k a _ <;> rfl

/-- What every exchange keeps, a run of exchanges keeps. -/
theorem runAnswers_keeps {Q : State → Prop}
    (hQ : ∀ (c : Instr) (k : Position) (a : Answer) (rest : List Answer) (s t : State), Q s → s.phase = .run c k →
      s.answers = a :: rest → completeExchange P c k a { s with answers := rest } = .ok t → Q t)
    {as : List Answer} (has : s.answers = as) (hs : Q s) (h : runAnswers P as s = .ok t) : Q t := by
  induction as generalizing s with
  | nil => cases h; exact hs
  | cons a rest ih =>
    cases hp : s.phase with
    | idle => rw [runAnswers_idle hp] at h; cases h; exact hs
    | run c k =>
      rw [runAnswers_cons hp] at h
      split at h
      · cases h
      · next u hu =>
        exact ih (completeExchange_channels hu).1 (hQ c k a rest s u hs hp has hu) h

/-- A run that ends ended in IDLE, or has used up its answers. -/
theorem runAnswers_ends {as : List Answer} (has : s.answers = as) (h : runAnswers P as s = .ok t) :
    t.phase = .idle ∨ t.answers = [] := by
  induction as generalizing s with
  | nil => cases h; exact .inr has
  | cons a rest ih =>
    cases hp : s.phase with
    | idle => rw [runAnswers_idle hp] at h; cases h; exact .inl hp
    | run c k =>
      rw [runAnswers_cons hp] at h
      split at h
      · cases h
      · next u hu => exact ih (completeExchange_channels hu).1 h

/-! ## A command -/

theorem beginCommand_keeps (h : beginCommand P c s = .ok t) : Keeps s t := by
  cases c <;>
    simp only [beginCommand, startInit, startAppend, startLastRecord, startRecordAt, startTraverseOldest,
      startTraverseNewest] at h <;> try cases h
  · exact ⟨rfl, rfl, rfl, rfl, rfl, rfl, rfl, rfl, rfl⟩
  · split at h
    · cases h; exact raise_keeps ..
    · split at h
      · cases h; exact raise_keeps ..
      · exact Keeps.after (startWrite_keeps h) ⟨rfl, rfl, rfl, rfl, rfl, rfl, rfl, rfl, rfl⟩
  · split at h
    · cases h; exact raise_keeps ..
    · split at h
      · cases h
      · split at h
        · cases h; exact raise_keeps ..
        · exact issue_keeps h
  · split at h
    · cases h; exact raise_keeps ..
    · split at h
      · cases h
      · split at h
        · cases h; exact raise_keeps ..
        · split at h
          · cases h; exact raise_keeps ..
          · exact issue_keeps h
  · split at h
    · cases h; exact raise_keeps ..
    · split at h
      · cases h
      · split at h
        · cases h; exact finish_keeps ..
        · exact Keeps.after (issue_keeps h) ⟨rfl, rfl, rfl, rfl, rfl, rfl, rfl, rfl, rfl⟩
  · split at h
    · cases h; exact raise_keeps ..
    · split at h
      · cases h
      · split at h
        · cases h; exact finish_keeps ..
        · exact Keeps.after (issue_keeps h) ⟨rfl, rfl, rfl, rfl, rfl, rfl, rfl, rfl, rfl⟩

/-- A command accepted in IDLE begins, then runs on the answers there are. -/
theorem proceed_accept : proceed P (s.accept c) =
    match beginCommand P c (s.accept c) with
    | .error e => .error e
    | .ok t => runAnswers P s.answers t := by
  have : proceed P (s.accept c) =
      match beginCommand P c (s.accept c) with
      | .error e => .error e
      | .ok t => runAnswers P t.answers t := rfl
  rw [this]
  split
  · rfl
  · next t ht => rw [(beginCommand_keeps ht).answers]; rfl

/-- Everything a command can come to: it waits behind a running one, or it begins and runs on the answers there are. -/
theorem launch_next (h : launch P c s = .next t) :
    (∃ c' k, s.phase = .run c' k ∧ t = s.defer P c) ∨
    (s.phase = .idle ∧ ∃ u, beginCommand P c (s.accept c) = .ok u ∧ runAnswers P s.answers u = .ok t) := by
  unfold launch at h
  split at h
  · next hp =>
    rw [outcomeOf_next, proceed_accept] at h
    split at h
    · cases h
    · next u hu => exact .inr ⟨hp, u, hu, h⟩
  · next c' k hp => cases h; exact .inl ⟨c', k, hp, rfl⟩

theorem launch_idle (h : s.phase = .idle) :
    launch P c s = outcomeOf (match beginCommand P c (s.accept c) with
      | .error e => .error e
      | .ok t => runAnswers P s.answers t) := by
  rw [← proceed_accept]
  simp [launch, h]

end Sys2Proof.Machine
end

