-- ==== Sys2Proof/Laws/Windows.lean ====
section
/-! SUPPORT. The gate's window over lists of exchanges. -/

namespace Sys2Proof.Machine

@[simp] theorem Window.afterAll_nil (P : Params) (w : Window) : w.afterAll P [] = some w := rfl

theorem Window.afterAll_cons {P : Params} {w v : Window} {r : ExchangeRecord} (l : List ExchangeRecord)
    (h : w.after P r = some v) : w.afterAll P (r :: l) = v.afterAll P l := by simp [Window.afterAll, h]

/-- Windows compose: a command that waits and goes on passes the gate as one that does not. -/
theorem Window.afterAll_append {P : Params} {w v : Window} {l l' : List ExchangeRecord}
    (h : w.afterAll P l = some v) : w.afterAll P (l ++ l') = v.afterAll P l' := by
  induction l generalizing w with
  | nil => cases h; rfl
  | cons r rest ih =>
    simp only [Window.afterAll] at h
    split at h
    · cases h
    · next u hu => rw [List.cons_append, Window.afterAll_cons _ hu, ih h]

end Sys2Proof.Machine
end

