-- ==== Sys2Proof/Tests/Slice0.lean ====
section
/-! SUPPORT. The model's own tests. Expected values come from spec/95_test_vectors.md and the rules' examples, never from
the model; each comment names its source. -/

namespace Sys2Proof.Tests

open Sys2Proof.Machine

/-! ## Helpers -/

/-- The outcome is a next state with the property. -/
def nextWith (o : Host.Outcome State Fault Refusal) (p : State → Bool) : Bool :=
  match o with
  | .next t => p t
  | .fault _ => false
  | .refused _ => false

/-- The decoder gives this instruction. -/
def decodesTo (w : Wire) (i : Instr) : Bool := (decode Config.params w).toOption == some i

/-- The decoder refuses. -/
def undecodable (w : Wire) : Bool := (decode Config.params w).toOption == none

/-- The end state of spec/95 program P1. -/
def p1 : State :=
  { State.reset with
    mode := .boot, count := 2, cursor := 204,
    mem := [(100, 0x00), (101, 0x02), (102, 0x00), (103, 0xCC), (200, 0x7D), (201, 0x11), (202, 0x00), (203, 0x40)] }

/-- A full ring whose cursor is on the last slot (spec/95 L2.5 (g)). -/
def full : State :=
  { State.reset with
    mode := .boot, count := 16283, cursor := 32764,
    mem := [(100, 0x3F), (101, 0x9B), (102, 0x7F), (103, 0xFC)] }

/-- `s` with the coming exchanges all good. -/
def goods (s : State) (n : Nat) : State := { s with answers := goodThen n [] }

/-- A busy exchange whose frame is lost. -/
def busy : Answer := .returns .busy .lost

/-! ## Well-formedness smoke test: the one check of R130 -/

theorem test_wellFormed_refuses_read_of_three : (Instr.mediumRead 200 3).wellFormed = false := by decide
theorem test_wellFormed_refuses_read_of_none : (Instr.mediumRead 200 0).wellFormed = false := by decide

/-! ## Decoding: words written out from R80-R84, R94 and R95 -/

theorem test_decode_init : decodesTo (.command 0x0100000000000000) .init = true := by decide
theorem test_decode_append : decodesTo (.command 0x0200000001F40201) (.append 1 2 500) = true := by decide
theorem test_decode_append_full_width :
    decodesTo (.command 0x02000000FFFFFFFF) (.append 255 255 65535) = true := by decide
theorem test_decode_lastRecord : decodesTo (.command 0x0300000000000000) .lastRecord = true := by decide
theorem test_decode_recordAt : decodesTo (.command 0x040000003F9C0000) (.recordAt 16284) = true := by decide
theorem test_decode_traverseOldest : decodesTo (.command 0x0500000000000000) .traverseOldest = true := by decide
theorem test_decode_traverseNewest : decodesTo (.command 0x0600000000000000) .traverseNewest = true := by decide
theorem test_decode_wren : decodesTo (.exchange ⟨[0x06], 0⟩) .mediumWren = true := by decide
theorem test_decode_wrdi : decodesTo (.exchange ⟨[0x04], 0⟩) .mediumWrdi = true := by decide
theorem test_decode_read : decodesTo (.exchange ⟨[0x03, 0x7F, 0xFC], 2⟩) (.mediumRead 32764 2) = true := by decide
theorem test_decode_write :
    decodesTo (.exchange ⟨[0x02, 0x00, 0xC8, 0x7D], 0⟩) (.mediumWrite 200 0x7D) = true := by decide
theorem test_decode_rdsr : decodesTo (.exchange ⟨[0x05], 0⟩) .mediumRdsr = true := by decide
theorem test_decode_wrsr : decodesTo (.exchange ⟨[0x01], 0⟩) .mediumWrsr = true := by decide
theorem test_decode_fastRead : decodesTo (.exchange ⟨[0x0B], 0⟩) .mediumFastRead = true := by decide
theorem test_decode_sleep : decodesTo (.exchange ⟨[0xB9], 0⟩) .mediumSleep = true := by decide
theorem test_decode_rdid : decodesTo (.exchange ⟨[0x9F], 0⟩) .mediumRdid = true := by decide

/-- spec/95 L2.10 (a)-(d), L2.7 (j). -/
theorem test_decode_refuses_illegal_words :
    ([0x0000000000000000, 0x0700000000000000, 0x0100000100000000, 0x0300000000000001, 0x0400000000010001].all
      fun w => undecodable (.command w)) = true := by decide
theorem test_decode_refuses_short_and_long_frames :
    ([⟨[], 0⟩, ⟨[0x06, 0x00], 0⟩, ⟨[0x03, 0x00], 1⟩, ⟨[0x02, 0x00, 0xC8], 0⟩, ⟨[0x03, 0x00, 0xC8], 3⟩, ⟨[0x07], 0⟩].all
      fun x => undecodable (.exchange x)) = true := by decide

/-! ## Parameters -/

theorem test_default_parameters_legal : Config.params.Legal := by decide
/-- The other allowed value of N_SLOTS (D1): RING_LAST is 32766 and 32764 is followed by it (spec/95 L2.4). -/
theorem test_sixteen_thousand_two_hundred_eighty_four_slots :
    let Q : Params := { Config.params with nSlots := 16284 }
    Q.Legal ∧ Q.ringLast = 32766 ∧ nextSlot Q 32764 = 32766 ∧ nextSlot Q 32766 = 200 ∧ prevSlot Q 200 = 32766 := by
  decide

/-- R7: METADATA may not lie on the last byte of the RING region, though no slot is there. -/
theorem test_ring_region_is_disjoint :
    ¬ ({ Config.params with metaFirst := 32766, metaLast := 32767, metaCountAddr := 32766 } : Params).Legal ∧
    ¬ ({ Config.params with
          metaFirst := 32766, metaLast := 32769, metaCountAddr := 32766, metaCursorAddr := 32768, mediumBytes := 65536 } :
        Params).Legal := by decide
/-- ADDR_BYTES = 3 (R7, D5): three address bytes, most significant first. -/
theorem test_three_address_bytes :
    let Q : Params := { Config.params with addrBytes := 3 }
    Q.Legal ∧ encode Q (.mediumWrite 0x7FFC 0xAA) = .exchange ⟨[0x02, 0x00, 0x7F, 0xFC, 0xAA], 0⟩ ∧
    (decode Q (.exchange ⟨[0x03, 0x00, 0x7F, 0xFC], 2⟩)).toOption = some (.mediumRead 0x7FFC 2) ∧
    (decode Q (.exchange ⟨[0x03, 0x01, 0x7F, 0xFC], 2⟩)).toOption = none ∧
    (decode Q (.exchange ⟨[0x03, 0x7F, 0xFC], 2⟩)).toOption = none := by decide

/-! ## Codec (spec/95 L2.2) and wrap logic (L2.4) -/

theorem test_enc_vectors : enc 5 3 682 = (0xAA, 0x9D) ∧ enc 0 0 3 = (0x00, 0xC0) ∧ enc 0 0 512 = (0x80, 0x00) := by
  decide
theorem test_dec_vectors :
    dec 0x12 0x34 = (4, 6, 72) ∧ dec 0xA5 0xC3 = (3, 0, 663) ∧ dec 0xFF 0xFF = (7, 7, 1023) := by decide
theorem test_wrap_vectors :
    nextSlot Config.params 32762 = 32764 ∧ nextSlot Config.params 32764 = 200 ∧ prevSlot Config.params 200 = 32764 ∧
    backSlot Config.params 210 3 = 204 ∧ backSlot Config.params 204 5 = 32760 := by decide
theorem test_valid_vectors :
    ValidSlot Config.params 514 ∧ ¬ ValidSlot Config.params 201 ∧ ¬ ValidSlot Config.params 32766 ∧
    ¬ ValidSlot Config.params 0 := by decide

/-! ## Commands -/

/-- spec/95 P1 step 1: INIT on a fresh medium repairs both values in 18 exchanges. -/
theorem test_init_fresh :
    nextWith (exec .init (goods State.reset 18)) (fun t =>
      t.mode == .boot && t.count == 0 && t.cursor == 200 && t.response == [0x08000000] &&
      t.exchanges.length == 18 && t.byte 101 == 0x00 && t.byte 103 == 0xC8) = true := by decide
/-- spec/95 L2.8 (k). -/
theorem test_init_timeout :
    nextWith (exec .init { State.reset with answers := [.returns .timeout .done] }) (fun t =>
      t.mode == .uninit && t.response == [0x48000000] && t.exchanges.length == 1) = true := by decide
/-- spec/95 L2.5 (g): the count saturates and the cursor wraps. -/
theorem test_append_full_wraps :
    nextWith (exec (.append 1 2 500) (goods full 24)) (fun t =>
      t.count == 16283 && t.cursor == 200 && t.response == [0x08000000] && t.byte 32764 == 0x7D &&
      t.byte 32765 == 0x11 && t.byte 101 == 0x9B && t.byte 103 == 0xC8 && t.exchanges.length == 24) = true := by
  decide
/-- spec/95 L2.5 (k): the WRITE of byte 103 times out; the count is kept, the cursor not advanced. -/
theorem test_append_cursor_write_timeout :
    nextWith
      (exec (.append 0 0 1)
        { p1 with count := 1, cursor := 202, answers := goodThen 21 [.returns .timeout .lost, Answer.good] })
      (fun t => t.count == 2 && t.cursor == 202 && t.response == [0x48000000] && t.exchanges.length == 23) = true := by
  decide
/-- spec/95 P4 step 12: the WRITE is lost and the read-back returns 00 where the medium holds FF, as only a held medium
does here (log 11). -/
theorem test_append_glitch :
    nextWith
      (exec (.append 7 7 1022)
        { p1 with
          count := 0, cursor := 200, mem := [], hold := true,
          answers := [Answer.good, .returns .ok .lost, Answer.good, .returns .ok (.delivers 0 0)] })
      (fun t => t.response == [0x68000000] && t.exchanges.length == 4 && t.byte 200 == 0xFF && t.count == 0 &&
        t.cursor == 200) = true := by decide
/-- R66: with "hold" inactive the read-back is the medium's byte, whatever the answer. -/
theorem test_read_back_is_the_mediums_byte :
    nextWith (exec .lastRecord { p1 with answers := [.returns .ok (.delivers 0xAA 0xBB)] })
      (fun t => t.response == [0x08000040]) = true := by decide
/-- spec/95 P1 step 4. -/
theorem test_lastRecord :
    nextWith (exec .lastRecord (goods p1 1)) (fun t =>
      t.response == [0x08000040] && t.exchanges.map (·.tx) == [[0x03, 0x00, 0xCA]]) = true := by decide
/-- spec/95 L2.6 (d): the slot behind RING_START is the last one. -/
theorem test_lastRecord_wraps :
    nextWith (exec .lastRecord (goods { p1 with count := 5, cursor := 200 } 1)) (fun t =>
      t.response == [0x0800FFFF] && t.exchanges.map (·.tx) == [[0x03, 0x7F, 0xFC]]) = true := by decide
/-- spec/95 P1 step 5. -/
theorem test_recordAt :
    nextWith (exec (.recordAt 1) (goods p1 1)) (fun t => t.response == [0x08007D11]) = true := by decide
/-- spec/95 L2.7 (c): the empty ring is judged before the index. -/
theorem test_recordAt_empty_before_index :
    nextWith (exec (.recordAt 0) { p1 with count := 0 }) (fun t => t.response == [0x78000000]) = true := by decide
/-- spec/95 L2.9 (c), (e). -/
theorem test_traverseOldest :
    nextWith (exec .traverseOldest (goods p1 2)) (fun t =>
      t.response == [0x00007D11, 0x00000040, 0x08000000]) = true := by decide
theorem test_traverseOldest_fails :
    nextWith (exec .traverseOldest { p1 with answers := [Answer.good, .returns .error .done] }) (fun t =>
      t.response == [0x00007D11, 0x28000000]) = true := by decide
/-- spec/95 L2.9 (d), (b). -/
theorem test_traverseNewest :
    nextWith (exec .traverseNewest (goods p1 2)) (fun t =>
      t.response == [0x00000040, 0x00007D11, 0x08000000]) = true := by decide
theorem test_traverseNewest_empty :
    nextWith (exec .traverseNewest { p1 with count := 0 }) (fun t => t.response == [0x08000000]) = true := by decide

/-! ## Medium frames (R65) -/

theorem test_write_needs_latch :
    nextWith (exec (.mediumWrite 200 0xAA) p1) (fun t => t.byte 200 == 0x7D) = true ∧
    nextWith (exec (.mediumWrite 200 0xAA) { p1 with wel := true }) (fun t => t.byte 200 == 0xAA && !t.wel) = true ∧
    nextWith (exec (.mediumWrite 200 0xAA) { p1 with wel := true, protect := true })
      (fun t => t.byte 200 == 0x7D && !t.wel) = true := by decide
theorem test_read_two_bytes :
    nextWith (exec (.mediumRead 200 2) p1) (fun t => t.exchanges.map (·.rx) == [[0x7D, 0x11]]) = true := by decide
theorem test_latch_frames :
    nextWith (exec .mediumWren p1) (·.wel) = true ∧
    nextWith (exec .mediumWrdi { p1 with wel := true }) (fun t => !t.wel) = true := by decide

/-! ## Steps -/

/-- spec/95 L2.10 (c): an illegal word changes nothing but the beats. -/
theorem test_step_illegal_word :
    nextWith (step { p1 with inbox := [.command 0x0100000100000000] }) (fun t =>
      t == { p1 with response := [0x88000000] }) = true := by decide
/-- R37, R232: power lost inside a command, with "hold" active or not, also drops a request that waits. -/
theorem test_power_loss_empties_the_request_channel :
    ([true, false].all fun h =>
      nextWith (step { p1 with
          hold := h, requests := [0x0300000000000000, 0x0500000000000000], answers := [.powerLoss 0 false] })
        (fun t => t.requests == [] && t.response == [] && t.mode == .uninit && t.phase == .idle)) = true := by decide
/-- R31: with no answer the block waits inside INIT, its read of `count` in progress. -/
theorem test_init_waits :
    nextWith (step (State.reset.withFetchWord 64 0x0100000000000000)) (fun t =>
      t.phase == .run .init .readCount && t.transport == some ⟨[0x03, 0x00, 0x64], 2⟩) = true := by decide
theorem test_frame_word_is_fetched :
    nextWith (step (State.reset.withFetchWord 8 0x06)) (·.wel) = true := by decide

/-! ## Witnesses: the hypotheses of each statement can be met together -/

/-- A state inside APPEND, before the WREN of its first byte. -/
def appending : State :=
  { p1 with
    hi := 0x00, lo := 0x40, phase := .run (.append 0 0 1) (.write .payload .wren), transport := some ⟨[0x06], 0⟩ }

/-- The same, before the WRITE. -/
def writing : State :=
  { appending with
    phase := .run (.append 0 0 1) (.write .payload .write), transport := some ⟨[0x02, 0x00, 0xCC, 0x00], 0⟩ }

/-- The same, before the read-back. -/
def readingBack : State :=
  { appending with
    phase := .run (.append 0 0 1) (.write .payload .readBack), transport := some ⟨[0x03, 0x00, 0xCC], 1⟩ }

theorem witness_legal_parameters_and_instruction :
    Config.params.Legal ∧ (Instr.mediumRead 65535 2).wellFormed = true ∧
    decodesTo (.exchange ⟨[0x03, 0xFF, 0xFF], 2⟩) (.mediumRead 65535 2) = true := by decide
theorem witness_illegal_words :
    IllegalWord 0x0000000000000000 ∧ IllegalWord 0x0700000000000000 ∧ IllegalWord 0x0100000100000000 ∧
    IllegalWord 0x0300000000000001 ∧ IllegalWord 0x0400000000000001 ∧ ¬ IllegalWord 0x0200000000000000 ∧
    ({ p1 with inbox := [.command 0x0700000000000000] } : State).phase = .idle ∧
    ({ p1 with inbox := [.command 0x0700000000000000] } : State).requests = [] ∧
    ({ p1 with requests := [0x0700000000000000] } : State).phase = .idle :=
  ⟨by decide, by decide, by decide, by decide, by decide, by decide, rfl, rfl, rfl⟩
theorem witness_valid_slots :
    Config.params.Legal ∧ ValidSlot Config.params 200 ∧ ValidSlot Config.params 32764 ∧ 16283 ≤ Config.params.nSlots := by
  decide
theorem witness_append_keeps_slots :
    ValidSlot Config.params 204 ∧ 2 < Config.params.capacity ∧ 16283 = Config.params.capacity ∧ 16282 < 16283 := by
  decide
theorem witness_uninit :
    State.reset.mode = .uninit ∧ State.reset.phase = .idle ∧ IsCommand .lastRecord = true ∧ Instr.lastRecord ≠ .init ∧
    nextWith (exec .lastRecord (goods p1 1)) (fun _ => true) = true ∧ (goods p1 1).powered = true := by decide
theorem witness_medium_frames :
    p1.hold = false ∧ MediumOk Config.params p1 ∧ (32766 : Word).toNat + 2 ≤ 32768 ∧ (32767 : Word).toNat < 32768 ∧
    32768 < (32767 : Word).toNat + 2 ∧ 32768 ≤ (32768 : Word).toNat := by decide
theorem witness_held :
    ({ p1 with hold := true } : State).hold = true ∧ MediumOk Config.params { p1 with hold := true } := by decide
theorem witness_protected :
    ({ appending with protect := true, answers := [Answer.good] } : State).protect = true ∧
    ({ appending with protect := true, answers := [Answer.good] } : State).powered = true ∧
    nextWith (step { appending with protect := true, answers := [Answer.good] }) (fun _ => true) = true ∧
    nextWith (exec .lastRecord { p1 with protect := true }) (fun _ => true) = true := by decide
theorem witness_step_runs :
    ({ p1 with inbox := [.command 0x0300000000000000] } : State).phase = .idle ∧
    decodesTo (.command 0x0300000000000000) .lastRecord = true ∧ decodesTo (.exchange ⟨[0x04], 0⟩) .mediumWrdi = true ∧
    p1.requests = [] ∧ p1.inbox = [] ∧ ({ p1 with requests := [0x0300000000000000] } : State).phase = .idle ∧
    appending.phase = .run (.append 0 0 1) (.write .payload .wren) := by decide
theorem witness_waiting :
    appending.phase = .run (.append 0 0 1) (.write .payload .wren) ∧
    nextWith (step { appending with answers := [Answer.good] }) (fun t => t.phase != .idle) = true ∧
    nextWith (step { appending with answers := [busy, busy] }) (fun t => t.phase == .idle) = true := by decide
theorem witness_external :
    ({ p1 with inbox := [.externalByte 32767 0] } : State).phase = .idle ∧ MediumOk Config.params p1 ∧ 32767 < 32768 ∧
    ({ p1 with inbox := [.pins true false] } : State).inbox = [.pins true false] ∧
    ({ p1 with inbox := [.powerCycle true] } : State).inbox = [.powerCycle true] := by decide
theorem inv_of_p1 : Inv Config.params p1 := ⟨by decide, rfl, fun _ => by decide⟩
theorem inv_of_appending : Inv Config.params appending := ⟨by decide, ⟨by decide, .inl rfl⟩, by decide, rfl⟩
theorem inv_of_writing : Inv Config.params writing := ⟨by decide, ⟨by decide, .inl rfl⟩, by decide, rfl⟩
theorem inv_of_readingBack : Inv Config.params readingBack := ⟨by decide, ⟨by decide, .inl rfl⟩, by decide, rfl⟩
theorem witness_power_loss :
    Inv Config.params { writing with answers := [.powerLoss 0x55 true] } ∧
    decodesTo (.exchange ⟨[0x02, 0x00, 0xCC, 0x00], 0⟩) (.mediumWrite 204 0x00) = true :=
  ⟨inv_of_writing, by decide⟩
theorem witness_init_loads :
    (goods p1 2).phase = .idle ∧ MediumOk Config.params p1 ∧ (goods p1 2).answers = goodThen (2 + 0 + 0) [] ∧
    (p1.metaValue 100).toNat ≤ 16283 ∧ (p1.metaValue 102).toNat = 204 ∧
    (State.reset.metaValue 100).toNat = 65535 ∧ (goods State.reset 18).answers = goodThen (2 + 8 + 8) [] := by decide
/-- Each clause of the self-heal statement at its boundaries. -/
theorem witness_selfHeal :
    ([0x00, 0x01, 0x02, 0x3F, 0x40, 0x41, 0x7E, 0x7F, 0x80, 0xFE].all fun (E : Byte) =>
      let s : State := { goods State.reset 18 with mem := [(100, E), (101, E), (102, E), (103, E)] }
      decide (s.phase = .idle ∧ s.protect = false ∧ MediumOk Config.params s ∧ s.byte 100 = E ∧ s.byte 103 = E ∧
        s.answers = goodThen 18 [])) = true := by decide
theorem witness_init_ends :
    nextWith (exec .init (goods p1 2)) (fun t => t.phase == .idle && t.mode == .boot) = true ∧
    nextWith (exec .init { p1 with answers := [busy] }) (fun t => t.phase == .idle && t.mode == .uninit) = true ∧
    (goods p1 2).powered = true := by decide
theorem witness_append :
    (goods full 25).phase = .idle ∧ full.protect = false ∧ MediumOk Config.params full ∧ RingReady Config.params full ∧
    (7 : Byte).toNat < 8 ∧ (1022 : Word).toNat < 1023 ∧ (goods full 25).answers = goodThen 25 [] ∧
    RingReady Config.params p1 ∧ (16282 : Word).toNat < full.count.toNat ∧ (2 : Word) = p1.count ∧
    p1.count.toNat < 16283 ∧ 1 ≤ (1 : Word).toNat ∧ (1 : Word).toNat < p1.count.toNat := by decide
theorem witness_protected_append :
    p1.phase = .idle ∧ ({ goods p1 4 with protect := true } : State).protect = true ∧
    (goods p1 4).answers = goodThen 4 [] ∧ p1.byte 204 ≠ (BitVec.ofNat 16 64 : Word).extractLsb' 8 8 := by decide
theorem witness_append_out_of_range :
    8 ≤ (8 : Byte).toNat ∧ 1023 ≤ (1023 : Word).toNat ∧ p1.mode = .boot ∧ p1.phase = .idle := by decide
/-- Each clause of R156: an APPEND that fails with 0, 8, 9, 16, 17 and 24 exchanges made. -/
theorem witness_failed_append :
    let fails (level : Byte) (as : List Answer) (m : Nat) : Bool :=
      let s : State := { p1 with answers := as }
      s.powered && s.faithful &&
        nextWith (exec (.append level 0 1) s) (fun t =>
          t.phase == .idle && t.exchanges.length == m && t.response != [beat .ok true 0])
    fails 8 [] 0 = true ∧ fails 0 (goodThen 7 [busy]) 8 = true ∧ fails 0 (goodThen 8 [busy, busy]) 10 = true ∧
    fails 0 (goodThen 15 [busy]) 16 = true ∧ fails 0 (goodThen 16 [busy, busy]) 18 = true ∧
    fails 0 (goodThen 23 [busy]) 24 = true ∧ ({ p1 with hold := true } : State).faithful = true := by decide
theorem witness_frames_of_commands :
    (goods p1 3).powered = true ∧ nextWith (exec (.append 0 0 1) (goods p1 3)) (fun t => t.phase != .idle) = true ∧
    nextWith (exec .init (goods p1 1)) (fun t => t.phase != .idle) = true ∧
    nextWith (exec .traverseNewest (goods p1 1)) (fun t => t.phase != .idle) = true := by decide
theorem witness_reads :
    (goods p1 1).phase = .idle ∧ RingReady Config.params p1 ∧ p1.count ≠ 0 ∧ 1 ≤ (2 : Word).toNat ∧ (2 : Word).toNat ≤ p1.count.toNat ∧
    (goods p1 1).answers = Answer.good :: [] ∧ (goods p1 2).answers = goodThen p1.count.toNat [] ∧
    RingReady Config.params { p1 with cursor := 200 } ∧ p1.count.toNat < (3 : Word).toNat ∧ (0 : Word).toNat < 1 := by
  decide
theorem witness_traversal_fails :
    (1 < p1.count.toNat ∧ 0 < p1.count.toNat) ∧ TransportOutcome.busy ≠ .ok ∧
    ({ p1 with answers := goodThen 1 [busy] } : State).answers = goodThen 1 [.returns .busy .lost] := by decide
theorem witness_failed_enable :
    Inv Config.params { appending with answers := [busy, Answer.good] } := inv_of_appending
theorem witness_gate_failure :
    Inv Config.params { appending with answers := [Answer.good, busy, Answer.good] } ∧
    Inv Config.params { appending with answers := [Answer.good, Answer.good, busy] } ∧
    jobTarget Config.params .payload appending = .ok (204, 0x00, 0x40) := ⟨inv_of_appending, inv_of_appending, rfl⟩
theorem witness_mismatch :
    Inv Config.params { readingBack with answers := [Answer.good] } ∧ readingBack.byte 204 ≠ 0x00 :=
  ⟨inv_of_readingBack, by decide⟩
/-- Windows entered, left and waited in by a step; the last two lose power inside one. -/
theorem witness_gated :
    Inv Config.params { appending with answers := goodThen 4 [] } ∧
    Inv Config.params { writing with answers := [.powerLoss 0x55 true] } ∧
    nextWith (step { appending with answers := [Answer.good] }) (fun t => windowOf t.phase == .armed) = true ∧
    nextWith (step { appending with answers := [busy] }) (fun t => windowOf t.phase == .closing) = true ∧
    nextWith (step { writing with answers := [.powerLoss 0x55 true] }) (fun t => t.phase == .idle) = true ∧
    nextWith (exec (.append 0 0 1) { p1 with answers := [Answer.good, .powerLoss 0x55 true] })
      (fun t => t.phase == .idle && t.exchanges.length == 2) = true ∧
    State.frameInHand { writing with inbox := [.frame ⟨[0x04], 0⟩] } = false :=
  ⟨inv_of_appending, inv_of_writing, by decide, by decide, by decide, by decide, rfl⟩
theorem witness_statuses :
    nextWith (exec (.append 0 0 1) (goods p1 24)) (fun t => t.phase == .idle) = true ∧
    nextWith (exec .traverseOldest { p1 with answers := [Answer.good, busy] }) (fun t => t.phase == .idle) = true := by
  decide
theorem witness_mode_changes :
    nextWith (step { goods p1 2 with inbox := [.command 0x0100000000000000], mode := .uninit }) (fun t => t.mode == .boot)
      = true ∧
    nextWith (step { p1 with inbox := [.command 0x0100000000000000] }) (fun t => t.mode == .uninit) = true ∧
    nextWith (step { p1 with inbox := [.powerCycle false] }) (fun t => t.mode == .uninit) = true ∧
    nextWith (step { appending with answers := [.powerLoss 0 false] }) (fun t => t.mode == .uninit) = true := by decide
theorem witness_mode_changes_invariant :
    Inv Config.params { goods p1 2 with inbox := [.command 0x0100000000000000], mode := .uninit } ∧
    Inv Config.params { p1 with inbox := [.command 0x0100000000000000] } ∧
    Inv Config.params { p1 with inbox := [.powerCycle false] } ∧
    Inv Config.params { appending with answers := [.powerLoss 0 false] } :=
  ⟨⟨inv_of_p1.1, rfl, by rintro ⟨⟩⟩, inv_of_p1, inv_of_p1, inv_of_appending⟩
theorem witness_invariant_step :
    Inv Config.params { p1 with inbox := [.frame ⟨[0x02, 0xFF, 0xFF, 0x00], 0⟩] } ∧
    (match step { p1 with inbox := [.frame ⟨[0x02, 0xFF, 0xFF, 0x00], 0⟩] } with
      | .fault e => e == .beyondMedium 65535
      | .next _ => false
      | .refused _ => false) = true := ⟨inv_of_p1, by decide⟩

end Sys2Proof.Tests
end

section
/-! Byte order of R15: `be16` and `unbe16` are inverses, and so are `meta16` and `unmeta16` for either byte order. -/

namespace Sys2Proof.Machine

@[simp] theorem unbe16_be16 (v : Word) : unbe16 (be16 v).1 (be16 v).2 = v := hiByte_append_loByte v

@[simp] theorem be16_unbe16 (b0 b1 : Byte) : be16 (unbe16 b0 b1) = (b0, b1) :=
  Prod.ext (hiByte_append b0 b1) (loByte_append b0 b1)

theorem meta16_of_bigEndian {P : Params} (h : P.metaBigEndian = true) (v : Word) : meta16 P v = be16 v := if_pos h

theorem meta16_of_littleEndian {P : Params} (h : ¬ P.metaBigEndian = true) (v : Word) :
    meta16 P v = (be16 v).swap := if_neg h

theorem unmeta16_of_bigEndian {P : Params} (h : P.metaBigEndian = true) (b0 b1 : Byte) :
    unmeta16 P b0 b1 = unbe16 b0 b1 := if_pos h

theorem unmeta16_of_littleEndian {P : Params} (h : ¬ P.metaBigEndian = true) (b0 b1 : Byte) :
    unmeta16 P b0 b1 = unbe16 b1 b0 := if_neg h

@[simp] theorem unmeta16_meta16 (P : Params) (v : Word) : unmeta16 P (meta16 P v).1 (meta16 P v).2 = v := by
  by_cases h : P.metaBigEndian = true
  · rw [unmeta16_of_bigEndian h, meta16_of_bigEndian h, unbe16_be16]
  · rw [unmeta16_of_littleEndian h, meta16_of_littleEndian h, Prod.fst_swap, Prod.snd_swap, unbe16_be16]

@[simp] theorem meta16_unmeta16 (P : Params) (b0 b1 : Byte) : meta16 P (unmeta16 P b0 b1) = (b0, b1) := by
  by_cases h : P.metaBigEndian = true
  · rw [unmeta16_of_bigEndian h, meta16_of_bigEndian h, be16_unbe16]
  · rw [unmeta16_of_littleEndian h, meta16_of_littleEndian h, be16_unbe16, Prod.swap_prod_mk]

/-- Settles O11: the bytes of a word by the arithmetic of its halves, the inverses by the two byte orders. -/
theorem metadataBytesAreThoseOfR15 : Obligations.MetadataBytesAreThoseOfR15 := fun P v b0 b1 =>
  ⟨hiByte_toNat v, loByte_toNat v, word_toNat_append b0 b1, rfl, unmeta16_meta16 P v, meta16_unmeta16 P b0 b1⟩

end Sys2Proof.Machine
end

section
/-! What a step runs (R30): one equation of `step` per source of work, and what each arrival comes to. -/

namespace Sys2Proof.Machine

/-- A host command is launched, under the default parameters. -/
theorem exec_command {i : Instr} (h : IsCommand i = true) (s : State) : exec i s = launch Config.params i s := by
  cases i with
  | init | append | lastRecord | recordAt | traverseOldest | traverseNewest => rfl
  | mediumWren | mediumWrdi | mediumRead | mediumWrite | mediumRdsr | mediumWrsr | mediumFastRead | mediumSleep
  | mediumRdid => cases h

/-- What becomes of an arrival once it is taken from its channel. -/
def onArrival (a : Arrival) (s : State) : Host.Outcome State Fault Refusal :=
  match arrive Config.params a s with
  | .instr i t => exec i t
  | .other o => o

theorem onArrival_command {w : CommandWord} {i : Instr} (h : decodeCommand w = .ok i) (s : State) :
    onArrival (.command w) s = exec i s := by simp [onArrival, arrive, h]

theorem onArrival_illegalCommand {w : CommandWord} {r : Reject} (h : decodeCommand w = .error r) (s : State) :
    onArrival (.command w) s = .next s.rejectCommand := by simp [onArrival, arrive, h]

theorem onArrival_frame {x : Exchange} {i : Instr} (h : decodeFrame Config.params x = .ok i) (s : State) :
    onArrival (.frame x) s = exec i s := by simp [onArrival, arrive, h]

theorem onArrival_notAFrame {x : Exchange} {r : Reject} (h : decodeFrame Config.params x = .error r) (s : State) :
    onArrival (.frame x) s = .refused (.notAFrame r) := by simp [onArrival, arrive, h]

theorem onArrival_byteInside {a : Nat} (h : a < 32768) (b : Byte) (s : State) :
    onArrival (.externalByte a b) s = .next { s with mem := Mem.write Config.params.eraseValue s.mem a b } := by
  simp [onArrival, arrive, show a < Config.params.mediumBytes from h]

theorem onArrival_byteBeyond {a : Nat} (h : ¬ a < 32768) (b : Byte) (s : State) :
    onArrival (.externalByte a b) s = .fault (.beyondMedium a) := by
  simp [onArrival, arrive, show ¬ a < Config.params.mediumBytes from h]

@[simp] theorem onArrival_pins (protect hold : Bool) (s : State) :
    onArrival (.pins protect hold) s = .next { s with protect := protect, hold := hold } := rfl

@[simp] theorem onArrival_powerCycle (wel : Bool) (s : State) :
    onArrival (.powerCycle wel) s = .next (s.powerCycle wel) := rfl

variable {s : State}

theorem fetch_of_request {P : Params} {w : CommandWord} {rest : List CommandWord} (hp : s.phase = .idle)
    (hr : s.requests = w :: rest) : fetch P s = arrive P (.command w) { s with requests := rest } := by
  simp [fetch, hp, hr]

theorem fetch_of_arrival {P : Params} {a : Arrival} {rest : List Arrival} (hp : s.phase = .idle)
    (hr : s.requests = []) (hi : s.inbox = a :: rest) : fetch P s = arrive P a { s with inbox := rest } := by
  simp [fetch, hp, hr, hi]

theorem step_of_request {w : CommandWord} {rest : List CommandWord} (hp : s.phase = .idle)
    (hr : s.requests = w :: rest) : step s = onArrival (.command w) { s with requests := rest } := by
  unfold step
  rw [fetch_of_request hp hr]
  rfl

theorem step_of_arrival {a : Arrival} {rest : List Arrival} (hp : s.phase = .idle) (hr : s.requests = [])
    (hi : s.inbox = a :: rest) : step s = onArrival a { s with inbox := rest } := by
  unfold step
  rw [fetch_of_arrival hp hr hi]
  rfl

theorem step_of_nothing (hp : s.phase = .idle) (hr : s.requests = []) (hi : s.inbox = []) : step s = .next s := by
  simp [step, fetch, hp, hr, hi]

theorem step_running {c : Instr} {k : Position} (hp : s.phase = .run c k) :
    step s = outcomeOf (proceed Config.params s) := by simp [step, fetch, hp]

/-- Past its start a command goes on with its exchanges. -/
theorem step_pastStart {c : Instr} {k : Position} (hp : s.phase = .run c k) (hk : k ≠ .start) :
    step s = outcomeOf (runAnswers Config.params s.answers s) := by
  rw [step_running hp]
  cases k <;> simp_all [proceed]

/-- Settles O25: the equations of `step`, with what the decoded arrival comes to. -/
theorem stepRunsTheDecodedInstruction : Obligations.StepRunsTheDecodedInstruction := fun _ _ =>
  ⟨fun _ _ hp hr hd => (step_of_request hp hr).trans (onArrival_command hd _),
   fun _ _ hp hr hi hd => (step_of_arrival hp hr hi).trans (onArrival_command hd _),
   fun _ _ hp hr hi hd => (step_of_arrival hp hr hi).trans (onArrival_frame hd _),
   step_of_nothing, fun _ _ hp => step_running hp⟩

/-- Settles O28: an outside change is the arrival's own update; a read after the write gives the bytes (R35, R36). -/
theorem externalChangesAreNotSeen : Obligations.ExternalChangesAreNotSeen := by
  refine ⟨fun s a b rest hp hr hi hm ha => ?_, fun s protect hold rest hp hr hi => ?_⟩
  · exact ⟨_, (step_of_arrival hp hr hi).trans (onArrival_byteInside ha b _), rfl,
      fun x => Mem.read_write a b x hm.1⟩
  · rw [step_of_arrival hp hr hi, onArrival_pins]

/-- Settles O18: the reset values, and an empty content reads as the erase value. -/
theorem resetLeavesTheStateOfR37 : Obligations.ResetLeavesTheStateOfR37 :=
  ⟨rfl, rfl, rfl, rfl, rfl, rfl, rfl, fun _ => rfl⟩

/-- Settles O57: at reset the block is idle in UNINIT and nothing is listed in the medium. -/
theorem resetMeetsTheInvariant : Obligations.ResetMeetsTheInvariant :=
  ⟨⟨Mem.wf_nil, Mem.within_nil _⟩, rfl, fun h => Mode.noConfusion h⟩

end Sys2Proof.Machine
end

section
/-! The slots of the default ring: what `Valid` says there, and that the wrap functions stay on it (R140-R145). -/

namespace Sys2Proof.Machine

theorem validSlot_default {a : Nat} : ValidSlot Config.params a ↔ 200 ≤ a ∧ a ≤ 32764 ∧ a % 2 = 0 := by
  have hlast : Config.params.ringLast = 32764 := rfl
  have hstart : Config.params.ringStart = 200 := rfl
  have hbytes : Config.params.slotBytes = 2 := rfl
  simp only [ValidSlot, hlast, hstart, hbytes]
  omega

theorem nextSlot_default (a : Nat) : nextSlot Config.params a = if 32764 < a + 2 then 200 else a + 2 := rfl

theorem prevSlot_default (a : Nat) : prevSlot Config.params a = if a = 200 then 32764 else a - 2 := rfl

theorem nextSlot_valid {a : Nat} (h : ValidSlot Config.params a) : ValidSlot Config.params (nextSlot Config.params a) := by
  rw [validSlot_default] at h ⊢
  rw [nextSlot_default]
  split <;> omega

theorem prevSlot_valid {a : Nat} (h : ValidSlot Config.params a) : ValidSlot Config.params (prevSlot Config.params a) := by
  rw [validSlot_default] at h ⊢
  rw [prevSlot_default]
  split <;> omega

theorem backSlot_valid {a : Nat} (k : Nat) (h : ValidSlot Config.params a) :
    ValidSlot Config.params (backSlot Config.params a k) := by
  induction k generalizing a with
  | zero => exact h
  | succ k ih => exact ih (prevSlot_valid h)

/-- A slot is an address of 16 bits, and its second byte is on the medium (R56). -/
theorem validSlot_toNat {a : Nat} (h : ValidSlot Config.params a) :
    (BitVec.ofNat 16 a : Word).toNat = a ∧ a + 1 < 32768 := by
  rw [validSlot_default] at h
  rw [BitVec.toNat_ofNat]
  omega

end Sys2Proof.Machine
end

section
/-! What the invariant gives inside a command: the cached registers can be read, the step's exchange is one of the block's
four frames, and the medium answers it (R24, R56, R140). -/

namespace Sys2Proof.Machine

variable {P : Params} {c : Instr} {k : Position} {s : State}

/-! ## The cached registers in BOOT -/

theorem readCount_boot (h : s.mode = .boot) : readCount s = .ok s.count := by simp [readCount, h]

theorem readCursor_boot (h : s.mode = .boot) : readCursor s = .ok s.cursor := by simp [readCursor, h]

theorem cursorSlot_ready (h : RingReady P s) : cursorSlot P s = .ok s.cursor.toNat := by
  obtain ⟨hm, -, hv⟩ := h
  simp only [cursorSlot, readCursor_boot hm, if_pos hv]

theorem logicalAddr_ready (h : RingReady P s) (i : Word) :
    logicalAddr P i s = .ok (backSlot P s.cursor.toNat (s.count.toNat + 1 - i.toNat)) := by
  simp only [logicalAddr, cursorSlot_ready h, readCount_boot h.1]

/-! ## What a position relies on -/

/-- The positions rely on registers alone, not on where the sequencer and its channels are. -/
@[simp] theorem commandReady_channels (p : Phase) (x : Option Exchange) (r : List Beat) (as : List Answer)
    (es : List ExchangeRecord) (m : Mem) (w : Bool) :
    CommandReady P c k
      { s with phase := p, transport := x, response := r, answers := as, exchanges := es, mem := m, wel := w } ↔
    CommandReady P c k s := by
  cases c <;> exact Iff.rfl

/-- A command in progress relies on R24 if the block is booted. -/
theorem commandReady_ring (h : CommandReady P c k s) (hm : s.mode = .boot) : RingReady P s := by
  cases c with
  | init => exact absurd (hm.symm.trans h.1) (by decide)
  | append | lastRecord | recordAt | traverseOldest | traverseNewest => exact h.1
  | mediumWren | mediumWrdi | mediumRead | mediumWrite | mediumRdsr | mediumWrsr | mediumFastRead | mediumSleep
  | mediumRdid => exact h.elim

/-- The two-byte write of INIT (R171) or APPEND (R147) that a command is inside, and what it relies on. -/
theorem commandReady_write {job : WriteJob} {g : GateStep} (h : CommandReady P c (.write job g) s) :
    ByteIndexOk s ∧
    ((c = .init ∧ s.mode = .uninit ∧ (job = .fixCount ∨ job = .fixCursor ∧ LegalCount P s.cnt0)) ∨
     ((∃ level thread code, c = .append level thread code) ∧ RingReady P s ∧
       (job = .payload ∨ (job = .newCount ∧ s.newCount.toNat ≤ P.capacity) ∨
        (job = .newCursor ∧ ValidSlot P s.newCursor.toNat)))) := by
  cases c with
  | init =>
    obtain ⟨hm, h⟩ := h
    cases job with
    | fixCount => exact ⟨h, .inl ⟨rfl, hm, .inl rfl⟩⟩
    | fixCursor => exact ⟨h.1, .inl ⟨rfl, hm, .inr ⟨rfl, h.2⟩⟩⟩
    | payload | newCount | newCursor => exact h.elim
  | append level thread code =>
    obtain ⟨hr, h⟩ := h
    cases job with
    | payload => exact ⟨h, .inr ⟨⟨_, _, _, rfl⟩, hr, .inl rfl⟩⟩
    | newCount => exact ⟨h.1, .inr ⟨⟨_, _, _, rfl⟩, hr, .inr (.inl ⟨rfl, h.2⟩)⟩⟩
    | newCursor => exact ⟨h.1, .inr ⟨⟨_, _, _, rfl⟩, hr, .inr (.inr ⟨rfl, h.2⟩)⟩⟩
    | fixCount | fixCursor => exact h.elim
  | lastRecord | recordAt | traverseOldest | traverseNewest => exact Position.noConfusion h.2.1
  | mediumWren | mediumWrdi | mediumRead | mediumWrite | mediumRdsr | mediumWrsr | mediumFastRead | mediumSleep
  | mediumRdid => exact h.elim

/-- The steps of the gate rely on the same. -/
theorem commandReady_gate {job : WriteJob} {g g' : GateStep} (h : CommandReady P c (.write job g) s) :
    CommandReady P c (.write job g') s := by
  obtain ⟨-, ⟨rfl, -, rfl | ⟨rfl, -⟩⟩ | ⟨⟨level, thread, code, rfl⟩, -, rfl | ⟨rfl, -⟩ | ⟨rfl, -⟩⟩⟩ :=
    commandReady_write h <;> exact h

/-- A write whose byte 0 is in place goes on with byte 1. -/
theorem commandReady_secondByte {job : WriteJob} {g : GateStep} (b : Byte) (h : CommandReady P c (.write job g) s) :
    CommandReady P c (.write job .wren) { s with rb := b, j := 1 } := by
  obtain ⟨-, ⟨rfl, hm, rfl | ⟨rfl, hn⟩⟩ | ⟨⟨level, thread, code, rfl⟩, hr, rfl | ⟨rfl, hn⟩ | ⟨rfl, hn⟩⟩⟩ :=
    commandReady_write h
  · exact ⟨hm, .inr rfl⟩
  · exact ⟨hm, .inr rfl, hn⟩
  · exact ⟨hr, .inr rfl⟩
  · exact ⟨hr, .inr rfl, hn⟩
  · exact ⟨hr, .inr rfl, hn⟩

/-- Only the reads of INIT stand at the metadata reads. -/
theorem commandReady_metaRead (h : CommandReady P c k s) (hk : k = .readCount ∨ k = .readCursor) :
    c = .init ∧ s.mode = .uninit := by
  cases c with
  | init => exact ⟨rfl, h.1⟩
  | append => obtain rfl | rfl := hk <;> exact h.2.elim
  | lastRecord | recordAt | traverseOldest | traverseNewest =>
    obtain rfl | rfl := hk <;> exact Position.noConfusion h.2.1
  | mediumWren | mediumWrdi | mediumRead | mediumWrite | mediumRdsr | mediumWrsr | mediumFastRead | mediumSleep
  | mediumRdid => exact h.elim

/-- No command past its acceptance stands at its start. -/
theorem not_commandReady_start : ¬ CommandReady P c .start s := by
  intro h
  cases c with
  | init | append => exact h.2
  | lastRecord | recordAt | traverseOldest | traverseNewest => exact Position.noConfusion h.2.1
  | mediumWren | mediumWrdi | mediumRead | mediumWrite | mediumRdsr | mediumWrsr | mediumFastRead | mediumSleep
  | mediumRdid => exact h

/-! ## The exchange of a position -/

/-- How many bytes the exchange of a position receives (R130, R131). -/
def Position.received : Position → Nat
  | .readCount | .readCursor | .readRecord => 2
  | .write _ .readBack => 1
  | .start | .write _ .wren | .write _ .write | .write _ (.wrdi _) => 0

/-- A frame of R95 that stays inside the default medium and receives `n` bytes. -/
def FrameInside (n : Nat) (i : Instr) : Prop :=
  (n = 0 ∧ (i = .mediumWren ∨ i = .mediumWrdi)) ∨
  (∃ a : Word, i = .mediumRead a n ∧ n ≤ 2 ∧ a.toNat + n ≤ 32768) ∨
  (n = 0 ∧ ∃ (a : Word) (d : Byte), i = .mediumWrite a d ∧ a.toNat < 32768)

theorem mediumReadAt_inside {a : Word} {n : Nat} (h : a.toNat + n ≤ 32768) (f : Fate) (s : State) :
    ∃ rx, mediumReadAt Config.params a n f s = .ok rx := by
  have h' : a.toNat + n ≤ Config.params.mediumBytes := h
  cases f <;> simp [mediumReadAt, h']

theorem mediumReadAt_beyond {a : Word} {n : Nat} (h : ¬ a.toNat + n ≤ 32768) (f : Fate) (s : State) :
    mediumReadAt Config.params a n f s = .error (.beyondMedium (a.toNat + n - 1)) := if_neg h

theorem mediumWriteAt_inside {a : Word} (h : a.toNat < 32768) (d : Byte) (f : Fate) (s : State) :
    ∃ t, mediumWriteAt Config.params a d f s = .ok t := by
  have h' : a.toNat < Config.params.mediumBytes := h
  cases f <;> simp [mediumWriteAt, h']

theorem mediumWriteAt_beyond {a : Word} (h : ¬ a.toNat < 32768) (d : Byte) (f : Fate) (s : State) :
    mediumWriteAt Config.params a d f s = .error (.beyondMedium a.toNat) := if_neg h

/-- The medium carries out a frame that stays inside it, whatever its fate. -/
theorem mediumFrame_inside {n : Nat} {i : Instr} (h : FrameInside n i) (f : Fate) (s : State) :
    ∃ rx t, mediumFrame Config.params i f s = .ok (rx, t) ∧ rx.length = n := by
  obtain ⟨rfl, rfl | rfl⟩ | ⟨a, rfl, hn, ha⟩ | ⟨rfl, a, d, rfl, ha⟩ := h
  · exact ⟨_, _, rfl, rfl⟩
  · exact ⟨_, _, rfl, rfl⟩
  · obtain ⟨rx, hrx⟩ := mediumReadAt_inside ha f s
    refine ⟨rx, s, by simp [mediumFrame, hrx], ?_⟩
    obtain ⟨-, rfl | ⟨-, b0, b1, -, rfl⟩⟩ := mediumReadAt_ok hrx
    · exact Mem.readBytes_length ..
    · simpa using hn
  · obtain ⟨t, ht⟩ := mediumWriteAt_inside ha d f s
    exact ⟨[], t, by simp [mediumFrame, ht], rfl⟩

/-- A loss of power inside such a frame leaves a medium. -/
theorem interruptedFrame_inside {n : Nat} {i : Instr} (h : FrameInside n i) (b : Byte) (s : State) :
    ∃ t, interruptedFrame Config.params i b s = .ok t := by
  obtain ⟨rfl, rfl | rfl⟩ | ⟨a, rfl, -, -⟩ | ⟨rfl, a, d, rfl, ha⟩ := h
  · exact ⟨_, rfl⟩
  · exact ⟨_, rfl⟩
  · exact ⟨_, rfl⟩
  · exact ⟨_, if_pos ha⟩

/-- The record a command reads is in a slot. -/
theorem recordAddr_ready (h : CommandReady Config.params c .readRecord s) :
    ∃ a, recordAddr Config.params c s = .ok a ∧ ValidSlot Config.params a := by
  cases c with
  | init | append => exact h.2.elim
  | lastRecord => exact ⟨_, by simp only [recordAddr, cursorSlot_ready h.1], prevSlot_valid h.1.2.2⟩
  | recordAt | traverseOldest | traverseNewest => exact ⟨_, logicalAddr_ready h.1 _, backSlot_valid _ h.1.2.2⟩
  | mediumWren | mediumWrdi | mediumRead | mediumWrite | mediumRdsr | mediumWrsr | mediumFastRead | mediumSleep
  | mediumRdid => exact h.elim

/-- Both bytes of a write are on the medium. -/
theorem jobTarget_ready {job : WriteJob} {g : GateStep} (h : CommandReady Config.params c (.write job g) s) :
    ∃ a b0 b1, jobTarget Config.params job s = .ok (a, b0, b1) ∧ a + 1 < 32768 := by
  obtain ⟨-, ⟨-, -, rfl | ⟨rfl, -⟩⟩ | ⟨-, hr, rfl | ⟨rfl, -⟩ | ⟨rfl, -⟩⟩⟩ := commandReady_write h
  · exact ⟨_, _, _, rfl, by decide⟩
  · exact ⟨_, _, _, rfl, by decide⟩
  · exact ⟨_, s.hi, s.lo, by simp only [jobTarget, readCursor_boot hr.1], (validSlot_toNat hr.2.2).2⟩
  · exact ⟨_, _, _, rfl, by decide⟩
  · exact ⟨_, _, _, rfl, by decide⟩

/-- The address of the byte a write is at. -/
theorem byteAddress_inside {a : Nat} (ha : a + 1 < 32768) (hj : ByteIndexOk s) :
    (BitVec.ofNat 16 (a + s.j.toNat) : Word).toNat < 32768 := by
  have hj' : s.j.toNat ≤ 1 := by obtain hj | hj := hj <;> rw [hj] <;> decide
  rw [BitVec.toNat_ofNat]
  omega

/-- Every exchange of the block is a frame of R95 inside the medium, and receives the bytes its position waits for. -/
theorem exchangeAt_ready (h : CommandReady Config.params c k s) :
    ∃ x i, exchangeAt Config.params c k s = .ok x ∧ decodeFrame Config.params x = .ok i ∧
      FrameInside k.received i := by
  cases k with
  | start => exact (not_commandReady_start h).elim
  | readCount => exact ⟨_, _, rfl, decodeFrame_readTwo _, .inr (.inl ⟨_, rfl, by decide, by decide⟩)⟩
  | readCursor => exact ⟨_, _, rfl, decodeFrame_readTwo _, .inr (.inl ⟨_, rfl, by decide, by decide⟩)⟩
  | readRecord =>
    obtain ⟨a, ha, hv⟩ := recordAddr_ready h
    have hn := validSlot_toNat hv
    refine ⟨readFrame _ (BitVec.ofNat 16 a) 2, _, by simp only [exchangeAt, ha], decodeFrame_readTwo _,
      .inr (.inl ⟨_, rfl, by decide, ?_⟩)⟩
    rw [hn.1, Position.received]
    omega
  | write job g =>
    obtain ⟨a, b0, b1, hjob, ha⟩ := jobTarget_ready h
    have haddr := byteAddress_inside ha (commandReady_write h).1
    cases g with
    | wren => exact ⟨_, _, by simp only [exchangeAt, writeExchange, hjob], decodeFrame_wren, .inl ⟨rfl, .inl rfl⟩⟩
    | wrdi => exact ⟨_, _, by simp only [exchangeAt, writeExchange, hjob], decodeFrame_wrdi, .inl ⟨rfl, .inr rfl⟩⟩
    | write =>
      exact ⟨writeFrame _ _ (byteAt s.j b0 b1), _, by simp only [exchangeAt, writeExchange, hjob],
        decodeFrame_write .., .inr (.inr ⟨rfl, _, _, rfl, haddr⟩)⟩
    | readBack =>
      exact ⟨_, _, by simp only [exchangeAt, writeExchange, hjob], decodeFrame_readOne _,
        .inr (.inl ⟨_, rfl, one_le_two, haddr⟩)⟩

end Sys2Proof.Machine
end

section
/-! Every step of the block from a state that meets the invariant answers a state that meets it: no fault and no lost
place (R22, R24, R140). `Settles r` is that claim about the block's part of one operation. -/

namespace Sys2Proof.Machine

variable {P : Params} {c : Instr} {k : Position} {s t : State}

theorem blockOk_idle (h : s.phase = .idle) :
    BlockOk P s ↔ s.transport = none ∧ (s.mode = .boot → RingReady P s) := by
  unfold BlockOk
  rw [h]

theorem blockOk_running (h : s.phase = .run c k) :
    BlockOk P s ↔ CommandReady P c k s ∧ s.transport ≠ none ∧ (exchangeAt P c k s).toOption = s.transport := by
  unfold BlockOk
  rw [h]

/-- The operation answers, and the block's part of the invariant holds of its result. -/
def Settles (r : Except Fault State) : Prop := ∃ t, r = .ok t ∧ BlockOk Config.params t

theorem settles_finish (h : s.mode = .boot → RingReady Config.params s) (st : Status) (r : Word) :
    Settles (.ok (s.finish st r)) :=
  ⟨_, rfl, (blockOk_idle (State.finish_phase s st r)).mpr ⟨rfl, h⟩⟩

theorem settles_raise (h : s.mode = .boot → RingReady Config.params s) (st : Status) : Settles (.ok (s.raise st)) :=
  settles_finish h st 0

theorem settles_issue (h : CommandReady Config.params c k s) : Settles (issue Config.params c k s) := by
  obtain ⟨x, -, hx, -⟩ := exchangeAt_ready h
  refine ⟨_, issue_of_exchangeAt hx, (blockOk_running rfl).mpr ⟨?_, Option.some_ne_none x, ?_⟩⟩
  · exact (commandReady_channels _ _ s.response s.answers s.exchanges s.mem s.wel).mpr h
  · exact congrArg Except.toOption
      ((exchangeAt_channels _ _ s.response s.answers s.exchanges s.mem s.wel).trans hx)

theorem settles_startWrite {job : WriteJob} (h : CommandReady Config.params c (.write job .wren) { s with j := 0 }) :
    Settles (startWrite Config.params c job s) := settles_issue h

/-! ## INIT -/

theorem settles_startInit (s : State) : Settles (startInit Config.params s) :=
  settles_issue (c := .init) (k := .readCount) ⟨rfl, trivial⟩

theorem settles_commitBootstrap (hn : LegalCount Config.params s.cnt0) (hc : LegalCursor Config.params s.cur0) :
    Settles (.ok (commitBootstrap s)) := settles_finish (fun _ => ⟨rfl, hn, hc⟩) .ok 0

theorem settles_checkCursorValue (hm : s.mode = .uninit) (hn : LegalCount Config.params s.cnt0) :
    Settles (checkCursorValue Config.params s) := by
  unfold checkCursorValue
  split
  · next hc => exact settles_commitBootstrap hn hc
  · exact settles_startWrite ⟨hm, .inl rfl, hn⟩

theorem settles_checkCountValue (hm : s.mode = .uninit) : Settles (checkCountValue Config.params s) := by
  unfold checkCountValue
  split
  · next hn => exact settles_checkCursorValue hm hn
  · exact settles_startWrite ⟨hm, .inl rfl⟩

/-! ## APPEND -/

theorem saturatingCount_le (P : Params) (n : Word) : (saturatingCount P n).toNat ≤ P.capacity := by
  rw [saturatingCount, BitVec.toNat_ofNat]
  exact (Nat.mod_le _ _).trans (Nat.min_le_right _ _)

theorem settles_wrotePayload {level thread : Byte} {code : Word} (hr : RingReady Config.params s) :
    Settles (wrotePayload Config.params (.append level thread code) s) := by
  simp only [wrotePayload, readCount_boot hr.1]
  exact settles_startWrite ⟨hr, .inl rfl, saturatingCount_le ..⟩

theorem settles_wroteCount {level thread : Byte} {code : Word} (hr : RingReady Config.params s)
    (hn : s.newCount.toNat ≤ Config.params.capacity) :
    Settles (wroteCount Config.params (.append level thread code) s) := by
  simp only [wroteCount, cursorSlot_ready hr]
  have hnext := nextSlot_valid hr.2.2
  refine settles_startWrite ⟨⟨hr.1, hn, hr.2.2⟩, .inl rfl, ?_⟩
  rwa [(validSlot_toNat hnext).1]

theorem settles_wroteCursor (hr : RingReady Config.params s) (hv : ValidSlot Config.params s.newCursor.toNat) :
    Settles (.ok (wroteCursor s)) := settles_finish (s := { s with cursor := s.newCursor }) (fun _ => ⟨hr.1, hr.2.1, hv⟩) .ok 0

/-! ## The step after an exchange -/

theorem settles_afterJob {job : WriteJob} {g : GateStep} (h : CommandReady Config.params c (.write job g) s) :
    Settles (afterJob Config.params c job s) := by
  obtain ⟨-, ⟨rfl, hm, rfl | ⟨rfl, hn⟩⟩ | ⟨⟨level, thread, code, rfl⟩, hr, rfl | ⟨rfl, hn⟩ | ⟨rfl, hv⟩⟩⟩ :=
    commandReady_write h
  · exact settles_checkCursorValue hm (Nat.zero_le _)
  · exact settles_commitBootstrap hn
      (show LegalCursor Config.params (BitVec.ofNat 16 Config.params.ringStart) by decide)
  · exact settles_wrotePayload hr
  · exact settles_wroteCount hr hn
  · exact settles_wroteCursor hr hv

theorem commandReady_rb {job : WriteJob} {g : GateStep} (b : Byte) (h : CommandReady P c (.write job g) s) :
    CommandReady P c (.write job g) { s with rb := b } := by
  cases c <;> exact h

theorem settles_afterReadBack {job : WriteJob} {g : GateStep} (b : Byte)
    (h : CommandReady Config.params c (.write job g) s) : Settles (afterReadBack Config.params c job b s) := by
  obtain ⟨a, b0, b1, hjob, -⟩ := jobTarget_ready h
  simp only [afterReadBack, hjob]
  split
  · split
    · exact settles_issue (commandReady_secondByte b h)
    · exact settles_afterJob (commandReady_rb b h)
  · exact settles_raise (commandReady_ring (commandReady_rb b h)) .writeFailed

theorem settles_gotOldest (b0 b1 : Byte) (h : CommandReady Config.params .traverseOldest .readRecord s) :
    Settles (gotOldest Config.params b0 b1 s) := by
  obtain ⟨hr, hk, hi, hn⟩ := h
  simp only [gotOldest, readCount_boot hr.1]
  split
  · next hlt =>
    refine settles_issue ⟨hr, hk, ?_⟩
    have hlt' : s.i.toNat < s.count.toNat := hlt
    change 1 ≤ (s.i + 1).toNat ∧ (s.i + 1).toNat ≤ s.count.toNat
    bv_omega
  · exact settles_finish (s := s.emit _) (fun _ => hr) .ok 0

theorem settles_gotNewest (b0 b1 : Byte) (h : CommandReady Config.params .traverseNewest .readRecord s) :
    Settles (gotNewest Config.params b0 b1 s) := by
  obtain ⟨hr, hk, hi, hn⟩ := h
  simp only [gotNewest]
  split
  · next hlt =>
    refine settles_issue ⟨hr, hk, ?_⟩
    change 1 ≤ (s.i - 1).toNat ∧ (s.i - 1).toNat ≤ s.count.toNat
    bv_omega
  · exact settles_finish (s := s.emit _) (fun _ => hr) .ok 0

theorem settles_afterRecord (b0 b1 : Byte) (h : CommandReady Config.params c .readRecord s) :
    Settles (afterRecord Config.params c b0 b1 s) := by
  cases c with
  | lastRecord | recordAt => exact settles_finish (commandReady_ring h) ..
  | traverseOldest => exact settles_gotOldest b0 b1 h
  | traverseNewest => exact settles_gotNewest b0 b1 h
  | init | append => exact h.2.elim
  | mediumWren | mediumWrdi | mediumRead | mediumWrite | mediumRdsr | mediumWrsr | mediumFastRead | mediumSleep
  | mediumRdid => exact h.elim

/-- A two-byte read settles if its failure and its continuation do. -/
theorem settles_afterRead2 {st : Status} {rx : Bytes} {f : Byte → Byte → State → Except Fault State}
    (hs : s.mode = .boot → RingReady Config.params s) (hrx : st = .ok → rx.length = 2)
    (hf : ∀ b0 b1, Settles (f b0 b1 s)) : Settles (afterRead2 st rx s f) := by
  unfold afterRead2
  split
  · exact settles_raise hs st
  · next hst =>
    obtain ⟨b0, b1, rfl⟩ := List.length_eq_two.mp (hrx (not_not.mp hst))
    exact hf b0 b1

/-- The step after an exchange that brought the bytes its position waits for. -/
theorem settles_afterExchange {st : Status} {rx : Bytes} (h : CommandReady Config.params c k s)
    (hrx : st = .ok → rx.length = k.received) : Settles (afterExchange Config.params c k st rx s) := by
  have hs := commandReady_ring h
  cases k with
  | start => exact (not_commandReady_start h).elim
  | readCount =>
    obtain ⟨rfl, hm⟩ := commandReady_metaRead h (.inl rfl)
    exact settles_afterRead2 hs hrx fun b0 b1 => settles_issue ⟨hm, trivial⟩
  | readCursor =>
    obtain ⟨rfl, hm⟩ := commandReady_metaRead h (.inr rfl)
    exact settles_afterRead2 hs hrx fun b0 b1 => settles_checkCountValue hm
  | readRecord => exact settles_afterRead2 hs hrx fun b0 b1 => settles_afterRecord b0 b1 h
  | write job g =>
    cases g with
    | wren | write | wrdi =>
      simp only [afterExchange]
      split
      · exact settles_issue (commandReady_gate h)
      · exact settles_raise hs _
    | readBack =>
      simp only [afterExchange]
      split
      · exact settles_raise hs st
      · next hst =>
        obtain ⟨b, rfl⟩ := List.length_eq_one_iff.mp (hrx (not_not.mp hst))
        exact settles_afterReadBack b h

/-! ## Exchanges -/

theorem phase_cases (s : State) : s.phase = .idle ∨ ∃ c k, s.phase = .run c k := by
  cases s.phase with
  | idle => exact .inl rfl
  | run c k => exact .inr ⟨c, k, rfl⟩

theorem inv_answers (as : List Answer) (h : Inv P s) : Inv P { s with answers := as } := by
  obtain hp | ⟨c, k, hp⟩ := phase_cases s
  · exact ⟨h.1, (blockOk_idle (s := { s with answers := as }) hp).mpr ((blockOk_idle hp).mp h.2)⟩
  · obtain ⟨hc, ht, hx⟩ := (blockOk_running hp).mp h.2
    have hx' := exchangeAt_channels (P := P) (c := c) (k := k) (s := s) s.phase s.transport s.response as s.exchanges
      s.mem s.wel
    exact ⟨h.1, (blockOk_running (s := { s with answers := as }) hp).mpr
      ⟨(commandReady_channels s.phase s.transport s.response as s.exchanges s.mem s.wel).mpr hc, ht,
        (congrArg Except.toOption hx').trans hx⟩⟩

/-- The status of an outcome is OK exactly for the outcome ok (R14). -/
theorem status_eq_ok {o : TransportOutcome} (h : o.status = .ok) : o = .ok := by
  cases o with
  | ok => rfl
  | busy | timeout | error => cases h

/-- A reset block on a sound medium meets the invariant. -/
theorem inv_powerCycle (wel : Bool) (h : MediumOk P s) : Inv P (s.powerCycle wel) :=
  ⟨h, rfl, fun hm => Mode.noConfusion hm⟩

/-- An exchange of a running command never faults, and keeps the invariant. -/
theorem completeExchange_inv (a : Answer) (h : Inv Config.params s) (hp : s.phase = .run c k) :
    ∃ t, completeExchange Config.params c k a s = .ok t ∧ Inv Config.params t := by
  obtain ⟨hc, -, hx⟩ := (blockOk_running hp).mp h.2
  obtain ⟨x, i, hat, hdec, hin⟩ := exchangeAt_ready hc
  have htr : s.transport = some x := hx.symm.trans (congrArg Except.toOption hat)
  cases a with
  | powerLoss b wel =>
    obtain ⟨u, hu⟩ := interruptedFrame_inside hin b s
    refine ⟨(u.note x none []).powerCycle wel, by simp only [completeExchange, htr, hdec, hu], inv_powerCycle wel ?_⟩
    obtain rfl | ⟨a, d, -, ha, rfl⟩ := interruptedFrame_ok hu
    · exact h.1
    · exact ⟨Mem.wf_write _ _ h.1.1, Mem.within_write h.1.2 ha⟩
  | returns o f =>
    obtain ⟨rx, u, hm, hlen⟩ := mediumFrame_inside hin f s
    rw [completeExchange_returns htr hdec hm]
    have hu : MediumOnly s u := (mediumFrame_ok hm).1
    rw [MediumOnly] at hu
    have hcu : CommandReady Config.params c k (u.note x (some o) (if o = .ok then rx else [])).release := by
      rw [hu]
      exact (commandReady_channels s.phase none s.response s.answers _ u.mem u.wel).mpr hc
    have hrx : o.status = .ok → (if o = .ok then rx else []).length = k.received := fun ho => by
      rw [if_pos (status_eq_ok ho), hlen]
    obtain ⟨t, ht, hb⟩ := settles_afterExchange hcu hrx
    refine ⟨t, ht, ?_, hb⟩
    have hmem : t.mem = u.mem := (afterExchange_keeps ht).mem
    rw [MediumOk, hmem]
    exact mediumFrame_mediumOk hm h.1.1 h.1.2

theorem runAnswers_inv (as : List Answer) (h : Inv Config.params s) :
    ∃ t, runAnswers Config.params as s = .ok t ∧ Inv Config.params t := by
  induction as generalizing s with
  | nil => exact ⟨s, rfl, h⟩
  | cons a rest ih =>
    cases hp : s.phase with
    | idle => exact ⟨s, runAnswers_idle hp, h⟩
    | run c k =>
      obtain ⟨t, ht, hinv⟩ := completeExchange_inv (s := { s with answers := rest }) a (inv_answers rest h) hp
      rw [runAnswers_cons hp, ht]
      exact ih hinv

/-! ## Commands -/

theorem checkMode_cases (s : State) :
    (s.mode = .uninit ∧ checkMode s = some .uninitialized) ∨ (s.mode = .boot ∧ checkMode s = none) := by
  cases hm : s.mode with
  | uninit => exact .inl ⟨rfl, by simp [checkMode, hm]⟩
  | boot => exact .inr ⟨rfl, by simp [checkMode, hm]⟩

theorem settles_startAppend (level thread : Byte) (code : Word) (h : s.mode = .boot → RingReady Config.params s) :
    Settles (startAppend Config.params level thread code s) := by
  obtain ⟨-, hc⟩ | ⟨hm, hc⟩ := checkMode_cases s <;> simp only [startAppend, hc]
  · exact settles_raise h _
  · split
    · exact settles_raise h _
    · exact settles_startWrite ⟨h hm, .inl rfl⟩

/-- A non-zero word is at least one. -/
theorem one_le_toNat {n : Word} (h : n ≠ 0) : 1 ≤ n.toNat := by bv_omega

theorem checkNotEmpty_none {n : Word} (h : checkNotEmpty n = none) : n ≠ 0 := by
  rintro rfl
  cases h

theorem checkIndex_none {n i : Word} (h : checkIndex n i = none) : 1 ≤ i.toNat ∧ i.toNat ≤ n.toNat := by
  unfold checkIndex at h
  split at h
  · cases h
  · omega

theorem settles_startLastRecord (h : s.mode = .boot → RingReady Config.params s) :
    Settles (startLastRecord Config.params s) := by
  obtain ⟨-, hc⟩ | ⟨hm, hc⟩ := checkMode_cases s <;> simp only [startLastRecord, hc]
  · exact settles_raise h _
  · simp only [readCount_boot hm]
    split
    · exact settles_raise h _
    · next hn => exact settles_issue ⟨h hm, rfl, le_rfl, one_le_toNat (checkNotEmpty_none hn)⟩

theorem settles_startRecordAt (i : Word) (h : s.mode = .boot → RingReady Config.params s) :
    Settles (startRecordAt Config.params i s) := by
  obtain ⟨-, hc⟩ | ⟨hm, hc⟩ := checkMode_cases s <;> simp only [startRecordAt, hc]
  · exact settles_raise h _
  · simp only [readCount_boot hm]
    split
    · exact settles_raise h _
    · split
      · exact settles_raise h _
      · next hi => exact settles_issue ⟨h hm, rfl, checkIndex_none hi⟩

theorem settles_startTraverseOldest (h : s.mode = .boot → RingReady Config.params s) :
    Settles (startTraverseOldest Config.params s) := by
  obtain ⟨-, hc⟩ | ⟨hm, hc⟩ := checkMode_cases s <;> simp only [startTraverseOldest, hc]
  · exact settles_raise h _
  · simp only [readCount_boot hm]
    split
    · exact settles_finish h ..
    · next hn => exact settles_issue ⟨h hm, rfl, le_rfl, one_le_toNat hn⟩

theorem settles_startTraverseNewest (h : s.mode = .boot → RingReady Config.params s) :
    Settles (startTraverseNewest Config.params s) := by
  obtain ⟨-, hc⟩ | ⟨hm, hc⟩ := checkMode_cases s <;> simp only [startTraverseNewest, hc]
  · exact settles_raise h _
  · simp only [readCount_boot hm]
    split
    · exact settles_finish h ..
    · next hn => exact settles_issue ⟨h hm, rfl, one_le_toNat hn, le_rfl⟩

theorem settles_beginCommand (hi : IsCommand c = true) (h : s.mode = .boot → RingReady Config.params s) :
    Settles (beginCommand Config.params c s) := by
  cases c with
  | init => exact settles_startInit s
  | append level thread code => exact settles_startAppend level thread code h
  | lastRecord => exact settles_startLastRecord h
  | recordAt i => exact settles_startRecordAt i h
  | traverseOldest => exact settles_startTraverseOldest h
  | traverseNewest => exact settles_startTraverseNewest h
  | mediumWren | mediumWrdi | mediumRead | mediumWrite | mediumRdsr | mediumWrsr | mediumFastRead | mediumSleep
  | mediumRdid => cases hi

/-- A host command accepted in IDLE never faults, and keeps the invariant. -/
theorem exec_command_inv {i : Instr} (hi : IsCommand i = true) (hp : s.phase = .idle) (h : Inv Config.params s) :
    ∃ t, exec i s = .next t ∧ Inv Config.params t := by
  obtain ⟨u, hu, hb⟩ := settles_beginCommand (s := s.accept i) hi ((blockOk_idle hp).mp h.2).2
  have hinv : Inv Config.params u := by
    refine ⟨?_, hb⟩
    rw [MediumOk, (beginCommand_keeps hu).mem]
    exact h.1
  obtain ⟨t, ht, hinv'⟩ := runAnswers_inv s.answers hinv
  refine ⟨t, ?_, hinv'⟩
  rw [exec_command hi, launch_idle hp, outcomeOf_next, hu]
  exact ht

end Sys2Proof.Machine
end

section
/-! The invariant over a step of the machine, and the only fault left: another agent's access outside the medium (R24,
log 4). -/

namespace Sys2Proof.Machine

variable {P : Params} {s t : State}

/-! ## What the decoders give -/

theorem noOperand_ok {w : CommandWord} {i j : Instr} (h : noOperand w j = .ok i) :
    i = j ∧ cmdA w = 0 ∧ cmdB w = 0 ∧ cmdC w = 0 := by
  unfold noOperand at h
  split at h
  · next hz => cases h; exact ⟨rfl, hz⟩
  · cases h

/-- Everything a legal command word can be (R81-R84). -/
theorem decodeCommand_ok {w : CommandWord} {i : Instr} (h : decodeCommand w = .ok i) :
    cmdRsv w = 0 ∧
    ((cmdOp w = 2 ∧ i = .append (cmdC w) (cmdB w) (cmdA w)) ∨
     (cmdOp w = 4 ∧ i = .recordAt (cmdA w) ∧ cmdB w = 0 ∧ cmdC w = 0) ∨
     ((cmdOp w = 1 ∧ i = .init ∨ cmdOp w = 3 ∧ i = .lastRecord ∨ cmdOp w = 5 ∧ i = .traverseOldest ∨
       cmdOp w = 6 ∧ i = .traverseNewest) ∧ cmdA w = 0 ∧ cmdB w = 0 ∧ cmdC w = 0)) := by
  unfold decodeCommand at h
  split at h
  · cases h
  · next hop =>
    split at h
    · cases h
    · next hrsv =>
      refine ⟨not_not.mp hrsv, ?_⟩
      split at h
      · next h1 => obtain ⟨rfl, hz⟩ := noOperand_ok h; exact .inr (.inr ⟨.inl ⟨h1, rfl⟩, hz⟩)
      · split at h
        · next h2 => cases h; exact .inl ⟨h2, rfl⟩
        · split at h
          · next h3 => obtain ⟨rfl, hz⟩ := noOperand_ok h; exact .inr (.inr ⟨.inr (.inl ⟨h3, rfl⟩), hz⟩)
          · split at h
            · next h4 =>
              split at h
              · next hz => cases h; exact .inr (.inl ⟨h4, rfl, hz⟩)
              · cases h
            · split at h
              · next h5 =>
                obtain ⟨rfl, hz⟩ := noOperand_ok h
                exact .inr (.inr ⟨.inr (.inr (.inl ⟨h5, rfl⟩)), hz⟩)
              · obtain ⟨rfl, hz⟩ := noOperand_ok h
                exact .inr (.inr ⟨.inr (.inr (.inr ⟨by bv_omega, rfl⟩)), hz⟩)

theorem decodeCommand_isCommand {w : CommandWord} {i : Instr} (h : decodeCommand w = .ok i) : IsCommand i = true := by
  obtain ⟨-, ⟨-, rfl⟩ | ⟨-, rfl, -⟩ | ⟨⟨-, rfl⟩ | ⟨-, rfl⟩ | ⟨-, rfl⟩ | ⟨-, rfl⟩, -⟩⟩ := decodeCommand_ok h <;> rfl

theorem opcodeFrame_ok {x : Exchange} {i j : Instr} :
    opcodeFrame x j = .ok i ↔ x.tx.length = 1 ∧ x.n = 0 ∧ j = i := by
  unfold opcodeFrame
  split
  · simp [*]
  · split <;> simp_all

/-- A frame on the transport is no host command: each opcode of R95 gives its own frame. -/
theorem decodeFrame_not_isCommand {x : Exchange} {i : Instr} (h : decodeFrame P x = .ok i) : IsCommand i = false := by
  unfold decodeFrame at h
  split at h
  · cases h
  · repeat' split at h
    all_goals grind [opcodeFrame_ok, IsCommand]

/-! ## Another agent's frame -/

/-- A frame on its own is carried out, or it is one of the five without an effect given (log 17). -/
theorem exec_frame {i : Instr} (h : IsCommand i = false) :
    (∀ s, exec i s = carryOut Config.params i s) ∨ ∃ r, ∀ s, exec i s = .refused r := by
  cases i with
  | init | append | lastRecord | recordAt | traverseOldest | traverseNewest => cases h
  | mediumWren | mediumWrdi | mediumRead | mediumWrite => exact .inl fun _ => rfl
  | mediumRdsr | mediumWrsr | mediumFastRead | mediumSleep | mediumRdid => exact .inr ⟨_, fun _ => rfl⟩

theorem inv_idle (hp : s.phase = .idle) :
    Inv P s ↔ MediumOk P s ∧ s.transport = none ∧ (s.mode = .boot → RingReady P s) :=
  and_congr_right' (blockOk_idle hp)

theorem carryOut_inv {i : Instr} (hp : s.phase = .idle) (h : Inv P s) (hc : carryOut P i s = .next t) : Inv P t := by
  obtain ⟨x, rx, u, -, hm, rfl⟩ := carryOut_next hc
  obtain ⟨hmem, htr, hring⟩ := (inv_idle hp).mp h
  have hu : MediumOnly s u := (mediumFrame_ok hm).1
  rw [MediumOnly] at hu
  have hmem' : MediumOk P u := mediumFrame_mediumOk hm hmem.1 hmem.2
  rw [hu] at hmem' ⊢
  exact (inv_idle (s := (State.countHeld { s with mem := u.mem, wel := u.wel }).note x _ rx) hp).mpr
    ⟨hmem', htr, hring⟩

/-- A frame on its own faults only outside the medium (R50, log 4). -/
theorem exec_frame_fault {i : Instr} {e : Fault} (hi : IsCommand i = false) (h : exec i s = .fault e) :
    ∃ a, e = .beyondMedium a ∧ 32768 ≤ a := by
  cases i with
  | init | append | lastRecord | recordAt | traverseOldest | traverseNewest => cases hi
  | mediumWren | mediumWrdi | mediumRdsr | mediumWrsr | mediumFastRead | mediumSleep | mediumRdid => cases h
  | mediumRead a n =>
    by_cases ha : a.toNat + n ≤ 32768
    · obtain ⟨rx, hrx⟩ := mediumReadAt_inside ha s.outsideFate s
      simp [exec, execMediumRead, carryOut, encode, mediumFrame, hrx] at h
    · have hrx := mediumReadAt_beyond ha s.outsideFate s
      simp only [exec, execMediumRead, carryOut, encode, mediumFrame, hrx] at h
      cases h
      exact ⟨_, rfl, by omega⟩
  | mediumWrite a d =>
    by_cases ha : a.toNat < 32768
    · obtain ⟨u, hu⟩ := mediumWriteAt_inside ha d s.outsideFate s
      simp [exec, execMediumWrite, carryOut, encode, mediumFrame, hu] at h
    · have hu := mediumWriteAt_beyond ha d s.outsideFate s
      simp only [exec, execMediumWrite, carryOut, encode, mediumFrame, hu] at h
      cases h
      exact ⟨_, rfl, by omega⟩

/-! ## Arrivals and steps -/

theorem onArrival_inv {a : Arrival} (hp : s.phase = .idle) (h : Inv Config.params s) (hn : onArrival a s = .next t) :
    Inv Config.params t := by
  obtain ⟨hmem, htr, hring⟩ := (inv_idle hp).mp h
  cases a with
  | command w =>
    cases hd : decodeCommand w with
    | error r =>
      rw [onArrival_illegalCommand hd] at hn
      cases hn
      exact ⟨hmem, (blockOk_idle (State.raise_phase s _)).mpr ⟨rfl, hring⟩⟩
    | ok i =>
      obtain ⟨u, hu, hinv⟩ := exec_command_inv (decodeCommand_isCommand hd) hp h
      rw [onArrival_command hd, hu] at hn
      cases hn
      exact hinv
  | frame x =>
    cases hd : decodeFrame Config.params x with
    | error r =>
      rw [onArrival_notAFrame hd] at hn
      cases hn
    | ok i =>
      rw [onArrival_frame hd] at hn
      obtain he | ⟨r, he⟩ := exec_frame (decodeFrame_not_isCommand hd) <;> rw [he] at hn
      · exact carryOut_inv hp h hn
      · cases hn
  | externalByte a b =>
    by_cases ha : a < 32768
    · rw [onArrival_byteInside ha] at hn
      cases hn
      exact (inv_idle (s := { s with mem := Mem.write _ s.mem a b }) hp).mpr
        ⟨⟨Mem.wf_write a b hmem.1, Mem.within_write hmem.2 ha⟩, htr, hring⟩
    · rw [onArrival_byteBeyond ha] at hn
      cases hn
  | pins protect hold =>
    rw [onArrival_pins] at hn
    cases hn
    exact (inv_idle (s := { s with protect := protect, hold := hold }) hp).mpr ⟨hmem, htr, hring⟩
  | powerCycle wel =>
    rw [onArrival_powerCycle] at hn
    cases hn
    exact inv_powerCycle wel hmem

theorem onArrival_fault {a : Arrival} {e : Fault} (hp : s.phase = .idle) (h : Inv Config.params s)
    (hf : onArrival a s = .fault e) :
    (∃ y, e = .beyondMedium y ∧ 32768 ≤ y) ∧ ((∃ x, a = .frame x) ∨ ∃ y b, a = .externalByte y b) := by
  cases a with
  | command w =>
    cases hd : decodeCommand w with
    | error r =>
      rw [onArrival_illegalCommand hd] at hf
      cases hf
    | ok i =>
      obtain ⟨u, hu, -⟩ := exec_command_inv (decodeCommand_isCommand hd) hp h
      rw [onArrival_command hd, hu] at hf
      cases hf
  | frame x =>
    cases hd : decodeFrame Config.params x with
    | error r =>
      rw [onArrival_notAFrame hd] at hf
      cases hf
    | ok i =>
      rw [onArrival_frame hd] at hf
      exact ⟨exec_frame_fault (decodeFrame_not_isCommand hd) hf, .inl ⟨x, rfl⟩⟩
  | externalByte a b =>
    by_cases ha : a < 32768
    · rw [onArrival_byteInside ha] at hf
      cases hf
    · rw [onArrival_byteBeyond ha] at hf
      cases hf
      exact ⟨⟨a, rfl, by omega⟩, .inr ⟨a, b, rfl⟩⟩
  | pins | powerCycle => cases hf

/-- A running command of a sound state goes on without a fault. -/
theorem step_running_inv {c : Instr} {k : Position} (hp : s.phase = .run c k) (h : Inv Config.params s) :
    ∃ t, step s = .next t ∧ Inv Config.params t := by
  have hc : CommandReady Config.params c k s := ((blockOk_running hp).mp h.2).1
  have hk : k ≠ .start := fun hk => not_commandReady_start (hk ▸ hc)
  obtain ⟨t, ht, hinv⟩ := runAnswers_inv s.answers h
  exact ⟨t, by rw [step_pastStart hp hk, ht, outcomeOf], hinv⟩

theorem inv_requests (rest : List CommandWord) (hp : s.phase = .idle) (h : Inv P s) :
    Inv P { s with requests := rest } := (inv_idle (s := { s with requests := rest }) hp).mpr ((inv_idle hp).mp h)

theorem inv_inbox (rest : List Arrival) (hp : s.phase = .idle) (h : Inv P s) :
    Inv P { s with inbox := rest } := (inv_idle (s := { s with inbox := rest }) hp).mpr ((inv_idle hp).mp h)

/-- Settles O56: a step goes on with a command, or takes a request or an arrival, or waits. -/
theorem stepKeepsTheInvariant : Obligations.StepKeepsTheInvariant := by
  intro s t h hn
  obtain hp | ⟨c, k, hp⟩ := phase_cases s
  · cases hr : s.requests with
    | cons w rest =>
      rw [step_of_request hp hr] at hn
      exact onArrival_inv (s := { s with requests := rest }) hp (inv_requests rest hp h) hn
    | nil =>
      cases hi : s.inbox with
      | cons a rest =>
        rw [step_of_arrival hp hr hi] at hn
        exact onArrival_inv (s := { s with inbox := rest }) hp (inv_inbox rest hp h) hn
      | nil =>
        rw [step_of_nothing hp hr hi] at hn
        cases hn
        exact h
  · obtain ⟨u, hu, hinv⟩ := step_running_inv hp h
    rw [hu] at hn
    cases hn
    exact hinv

/-- Settles O58: only an arrival can fault, and of those only a frame or a change outside the medium does. -/
theorem safeStatesDoNotFault : Obligations.SafeStatesDoNotFault := by
  intro s e h hf
  obtain hp | ⟨c, k, hp⟩ := phase_cases s
  · cases hr : s.requests with
    | cons w rest =>
      rw [step_of_request hp hr] at hf
      have ha := onArrival_fault (s := { s with requests := rest }) hp (inv_requests rest hp h) hf
      obtain ⟨-, ⟨x, hx⟩ | ⟨y, b, hx⟩⟩ := ha <;> cases hx
    | nil =>
      cases hi : s.inbox with
      | cons a rest =>
        rw [step_of_arrival hp hr hi] at hf
        obtain ⟨⟨y, he, hy⟩, ha⟩ := onArrival_fault (s := { s with inbox := rest }) hp (inv_inbox rest hp h) hf
        refine ⟨y, he, hy, hp, rfl, ?_⟩
        obtain ⟨x, rfl⟩ | ⟨z, b, rfl⟩ := ha
        · exact .inl ⟨x, rest, rfl⟩
        · exact .inr ⟨z, b, rest, rfl⟩
      | nil =>
        rw [step_of_nothing hp hr hi] at hf
        cases hf
  · obtain ⟨u, hu, -⟩ := step_running_inv hp h
    rw [hu] at hf
    cases hf

end Sys2Proof.Machine
end

section
/-! Requests wait while a command is in progress (R30): a run of exchanges leaves both queues, and a command word given
meanwhile joins the request channel as it came. -/

namespace Sys2Proof.Machine

variable {P : Params} {s t : State}

/-! ## The word of a decoded command -/

/-- A command word is its five fields (R80). -/
theorem commandWord_fields (w : CommandWord) : cmdOp w ++ cmdRsv w ++ cmdA w ++ cmdB w ++ cmdC w = w := by
  ext k hk
  simp [cmdOp, cmdRsv, cmdA, cmdB, cmdC]
  grind

theorem commandWord_of_fields {w : CommandWord} (h : cmdRsv w = 0) :
    commandWord (cmdOp w) (cmdA w) (cmdB w) (cmdC w) = w :=
  Eq.trans (by rw [h]; rfl) (commandWord_fields w)

/-- Encoding what a legal word decodes to gives the word back (R94). -/
theorem encode_decodeCommand {w : CommandWord} {i : Instr} (h : decodeCommand w = .ok i) :
    encode P i = .command w := by
  obtain ⟨hrsv, hfields⟩ := decodeCommand_ok h
  rw [← commandWord_of_fields hrsv]
  obtain ⟨ho, rfl⟩ | ⟨ho, rfl, hb, hc⟩ | ⟨hop, ha, hb, hc⟩ := hfields
  · rw [ho]; rfl
  · rw [ho, hb, hc]; rfl
  · rw [ha, hb, hc]
    obtain ⟨ho, rfl⟩ | ⟨ho, rfl⟩ | ⟨ho, rfl⟩ | ⟨ho, rfl⟩ := hop <;> rw [ho] <;> rfl

theorem defer_decoded {w : CommandWord} {i : Instr} (h : decodeCommand w = .ok i) :
    s.defer P i = { s with requests := s.requests ++ [w] } := by simp only [State.defer, encode_decodeCommand h]

/-- A command executed while another is in progress waits (R30). -/
theorem exec_running {c : Instr} {k : Position} {w : CommandWord} {i : Instr} (hp : s.phase = .run c k)
    (h : decodeCommand w = .ok i) : exec i s = .next { s with requests := s.requests ++ [w] } := by
  rw [exec_command (decodeCommand_isCommand h), ← defer_decoded (P := Config.params) h]
  simp only [launch, hp]

/-! ## The queues over a run of exchanges -/

theorem runAnswers_inbox {as : List Answer} (has : s.answers = as) (h : runAnswers P as s = .ok t) :
    t.inbox = s.inbox :=
  runAnswers_keeps (Q := fun u => u.inbox = s.inbox)
    (fun _ _ _ _ _ _ hQ _ _ hc => (completeExchange_channels hc).2.1.trans hQ) has rfl h

theorem runAnswers_requests {as : List Answer} (has : s.answers = as) (hpow : s.powered = true)
    (h : runAnswers P as s = .ok t) : t.requests = s.requests := by
  refine (runAnswers_keeps (Q := fun u => u.requests = s.requests ∧ u.powered = true) ?_ has ⟨rfl, hpow⟩ h).1
  intro c k a rest u v ⟨hreq, hu⟩ _ hans hc
  simp only [State.powered, hans, List.all_cons, Bool.and_eq_true] at hu
  have hv : v.powered = true := by rw [State.powered, (completeExchange_channels hc).1]; exact hu.2
  cases a with
  | powerLoss b wel => cases hu.1
  | returns o f => exact ⟨(completeExchange_requests hc).trans hreq, hv⟩

/-- A command in progress goes on from a state with the same inputs: itself, or the one its beginning leads to. -/
theorem proceed_running {c : Instr} {k : Position} (hp : s.phase = .run c k) (h : proceed P s = .ok t) :
    ∃ u, Keeps s u ∧ runAnswers P s.answers u = .ok t := by
  unfold proceed at h
  split at h
  · next hi => cases hi.symm.trans hp
  · split at h
    · cases h
    · next u hu => exact ⟨u, beginCommand_keeps hu, (beginCommand_keeps hu).answers ▸ h⟩
  · exact ⟨s, Keeps.refl s, h⟩

/-- Settles O26: exchanges leave the queues, and the word of a deferred command is the word that was decoded. -/
theorem requestsWaitForTheRunningCommand : Obligations.RequestsWaitForTheRunningCommand := by
  refine fun s c k hp => ⟨fun t h => ?_, fun i w hw => exec_running hp hw⟩
  rw [step_running hp, outcomeOf_next] at h
  obtain ⟨u, hk, hrun⟩ := proceed_running hp h
  refine ⟨(runAnswers_inbox hk.answers hrun).trans hk.inbox, fun hpow => ?_⟩
  have hpow' : u.powered = true := by rw [State.powered, hk.answers]; exact hpow
  exact (runAnswers_requests hk.answers hpow' hrun).trans hk.requests

end Sys2Proof.Machine
end

section
/-! Another agent's frame at a held medium (R35, log 19). -/

namespace Sys2Proof.Machine

variable {P : Params} {s : State}

theorem carryOut_of_mediumFrame {i : Instr} {x : Exchange} {rx : Bytes} {u : State} (hx : encode P i = .exchange x)
    (hm : mediumFrame P i s.outsideFate s = .ok (rx, u)) :
    carryOut P i s = .next (u.countHeld.note x (some .ok) rx) := by simp only [carryOut, hx, hm]

theorem countHeld_held (h : s.hold = true) : s.countHeld = { s with heldFrames := s.heldFrames + 1 } := by
  simp only [State.countHeld, h, if_true]

/-- What a frame on its own comes to while "hold" is active: the frame's effect on content and latch, one more frame
counted, and the record. -/
theorem carryOut_held {i : Instr} {x : Exchange} {rx : Bytes} {u : State} (hh : s.hold = true)
    (hx : encode P i = .exchange x) (hm : mediumFrame P i s.outsideFate s = .ok (rx, u)) :
    carryOut P i s = .next
      { s with
        mem := u.mem, wel := u.wel, heldFrames := s.heldFrames + 1,
        exchanges := s.exchanges ++ [completed x .ok rx] } := by
  rw [carryOut_of_mediumFrame hx hm]
  have hu : MediumOnly s u := (mediumFrame_ok hm).1
  rw [MediumOnly] at hu
  rw [hu, countHeld_held (s := { s with mem := u.mem, wel := u.wel }) hh]
  rfl

/-- A WRITE changes no byte but its own, and none of a medium that is not writable (R65, log 12). -/
theorem mediumWriteAt_byte {a : Word} {d : Byte} {f : Fate} {u : State}
    (h : mediumWriteAt Config.params a d f s = .ok u) (hm : MediumOk Config.params s) {x : Nat}
    (hx : x ≠ a.toNat ∨ s.writable = false) : u.byte x = s.byte x := by
  obtain ⟨-, -, hmem | ⟨hw, b, hmem⟩⟩ := mediumWriteAt_ok h
  · rw [State.byte, hmem, State.byte]
  · have hne : x ≠ a.toNat := hx.resolve_right (by simp [hw])
    rw [State.byte, hmem, Mem.read_write_other b hm.1 hne, State.byte]

/-- Settles O22: each frame is carried out with the free fate, inside the medium always with an answer. -/
theorem framesAtAHeldMediumGoOn : Obligations.FramesAtAHeldMediumGoOn := by
  intro s a d hh hm
  refine ⟨?_, ?_, fun n hn ha => ?_, fun ha => ?_⟩
  · refine ⟨_, carryOut_held (i := .mediumWren) (u := mediumLatch true s.outsideFate s) hh rfl rfl, ?_⟩
    rw [mediumLatch_mem]
    rfl
  · refine ⟨_, carryOut_held (i := .mediumWrdi) (u := mediumLatch false s.outsideFate s) hh rfl rfl, ?_⟩
    rw [mediumLatch_mem]
    rfl
  · have hin : FrameInside n (.mediumRead a n) := .inr (.inl ⟨a, rfl, by omega, ha⟩)
    obtain ⟨rx, u, hu, hlen⟩ := mediumFrame_inside hin s.outsideFate s
    refine ⟨rx, hlen, (carryOut_held hh rfl hu).trans ?_⟩
    obtain ⟨-, ⟨-, hi | hi, -⟩ | ⟨_, _, -, rfl, -⟩ | ⟨_, _, hi, -⟩⟩ := mediumFrame_ok hu
    · cases hi
    · cases hi
    · rfl
    · cases hi
  · obtain ⟨u, hu⟩ := mediumWriteAt_inside ha d s.outsideFate s
    have hframe : mediumFrame Config.params (.mediumWrite a d) s.outsideFate s = .ok ([], u) := by
      simp only [mediumFrame, hu]
    exact ⟨_, carryOut_held hh rfl hframe, rfl, fun x hx => mediumWriteAt_byte hu hm hx⟩

end Sys2Proof.Machine
end

section
/-! What no step of the block depends on: the answers still to come, and what COUNT and CURSOR hold while MODE = UNINIT
(R22, R26). One relation states both, and every operation of the sequencer keeps it. -/

namespace Sys2Proof.Machine

/-- What two runs of the block may differ in. -/
inductive Unseen where
  /-- COUNT and CURSOR, while MODE = UNINIT (R22). -/
  | cached
  /-- The answers still to come (R31). -/
  | answers

/-- `u` is `s` apart from what is unseen: other answers still to come, or, while MODE = UNINIT, other contents of COUNT
and CURSOR. -/
def AgreeBut (v : Unseen) (s u : State) : Prop :=
  ∃ n c as, u = { s with count := n, cursor := c, answers := as } ∧
    (v = .answers ∨ s.mode = .boot → n = s.count ∧ c = s.cursor) ∧ (v = .cached → as = s.answers)

/-- Both operations fault alike, or both answer and the results agree. -/
inductive AgreeResult (v : Unseen) : Except Fault State → Except Fault State → Prop where
  | ok {t u : State} (h : AgreeBut v t u) : AgreeResult v (.ok t) (.ok u)
  | error (e : Fault) : AgreeResult v (.error e) (.error e)

variable {v : Unseen} {P : Params} {c : Instr} {k : Position} {s u : State}

theorem AgreeResult.ite {p : Prop} [Decidable p] {a b a' b' : Except Fault State} (ha : AgreeResult v a a')
    (hb : AgreeResult v b b') : AgreeResult v (if p then a else b) (if p then a' else b') := by
  split
  · exact ha
  · exact hb

/-! ## What the block reads -/

theorem AgreeBut.readCount_eq (h : AgreeBut v s u) : readCount u = readCount s := by
  obtain ⟨n, c, as, rfl, hreg, -⟩ := h
  cases hm : s.mode with
  | uninit => simp only [readCount, hm]
  | boot => simp only [readCount, hm, (hreg (.inr hm)).1]

theorem AgreeBut.readCursor_eq (h : AgreeBut v s u) : readCursor u = readCursor s := by
  obtain ⟨n, c, as, rfl, hreg, -⟩ := h
  cases hm : s.mode with
  | uninit => simp only [readCursor, hm]
  | boot => simp only [readCursor, hm, (hreg (.inr hm)).2]

theorem AgreeBut.cursorSlot_eq (h : AgreeBut v s u) : cursorSlot P u = cursorSlot P s := by
  simp only [cursorSlot, h.readCursor_eq]

theorem AgreeBut.logicalAddr_eq (h : AgreeBut v s u) (i : Word) : logicalAddr P i u = logicalAddr P i s := by
  simp only [logicalAddr, h.cursorSlot_eq, h.readCount_eq]

theorem AgreeBut.jobTarget_eq (h : AgreeBut v s u) (job : WriteJob) : jobTarget P job u = jobTarget P job s := by
  have hc := h.readCursor_eq
  obtain ⟨n, c, as, rfl, -, -⟩ := h
  cases job with
  | payload => simp only [jobTarget, hc]
  | newCount | newCursor | fixCount | fixCursor => rfl

theorem AgreeBut.recordAddr_eq (h : AgreeBut v s u) : recordAddr P c u = recordAddr P c s := by
  have hs : cursorSlot P u = cursorSlot P s := h.cursorSlot_eq
  have hl : ∀ i, logicalAddr P i u = logicalAddr P i s := h.logicalAddr_eq
  obtain ⟨n, c', as, rfl, -, -⟩ := h
  cases c with
  | lastRecord => simp only [recordAddr, hs]
  | recordAt | traverseOldest | traverseNewest => exact hl _
  | init | append | mediumWren | mediumWrdi | mediumRead | mediumWrite | mediumRdsr | mediumWrsr | mediumFastRead
  | mediumSleep | mediumRdid => rfl

theorem AgreeBut.exchangeAt_eq (h : AgreeBut v s u) : exchangeAt P c k u = exchangeAt P c k s := by
  have hj : ∀ job, jobTarget P job u = jobTarget P job s := h.jobTarget_eq
  have hr : recordAddr P c u = recordAddr P c s := h.recordAddr_eq
  obtain ⟨n, c', as, rfl, -, -⟩ := h
  cases k with
  | start | readCount | readCursor => rfl
  | readRecord => simp only [exchangeAt, hr]
  | write job g => simp only [exchangeAt, writeExchange, hj]

/-! ## The steps between exchanges -/

theorem AgreeBut.finish (h : AgreeBut v s u) (st : Status) (r : Word) : AgreeBut v (s.finish st r) (u.finish st r) := by
  obtain ⟨n, c, as, rfl, hreg, hans⟩ := h
  exact ⟨n, c, as, rfl, hreg, hans⟩

theorem AgreeBut.raise (h : AgreeBut v s u) (st : Status) : AgreeBut v (s.raise st) (u.raise st) := h.finish st 0

theorem issue_agree (h : AgreeBut v s u) : AgreeResult v (issue P c k s) (issue P c k u) := by
  simp only [issue, h.exchangeAt_eq]
  obtain ⟨n, c', as, rfl, hreg, hans⟩ := h
  cases exchangeAt P c k s with
  | error e => exact .error e
  | ok x => exact .ok ⟨n, c', as, rfl, hreg, hans⟩

theorem startWrite_agree {job : WriteJob} (h : AgreeBut v s u) :
    AgreeResult v (startWrite P c job s) (startWrite P c job u) := by
  obtain ⟨n, c', as, rfl, hreg, hans⟩ := h
  exact issue_agree ⟨n, c', as, rfl, hreg, hans⟩

/-- The bootstrap ends in BOOT, with the same registers whatever they held before (R174). -/
theorem commitBootstrap_agree (h : AgreeBut v s u) : AgreeBut v (commitBootstrap s) (commitBootstrap u) := by
  obtain ⟨n, c, as, rfl, hreg, hans⟩ := h
  exact ⟨s.cnt0, s.cur0, as, rfl, fun _ => ⟨rfl, rfl⟩, hans⟩

theorem checkCursorValue_agree (h : AgreeBut v s u) :
    AgreeResult v (checkCursorValue P s) (checkCursorValue P u) := by
  have hc := commitBootstrap_agree h
  have hw := startWrite_agree (P := P) (c := .init) (job := .fixCursor) h
  obtain ⟨n, c, as, rfl, -, -⟩ := h
  exact .ite (.ok hc) hw

theorem checkCountValue_agree (h : AgreeBut v s u) : AgreeResult v (checkCountValue P s) (checkCountValue P u) := by
  have hc := checkCursorValue_agree (P := P) h
  have hw := startWrite_agree (P := P) (c := .init) (job := .fixCount) h
  obtain ⟨n, c, as, rfl, -, -⟩ := h
  exact .ite hc hw

theorem gotCount_agree (b0 b1 : Byte) (h : AgreeBut v s u) : AgreeResult v (gotCount P b0 b1 s) (gotCount P b0 b1 u) := by
  obtain ⟨n, c, as, rfl, hreg, hans⟩ := h
  exact issue_agree ⟨n, c, as, rfl, hreg, hans⟩

theorem gotCursor_agree (b0 b1 : Byte) (h : AgreeBut v s u) :
    AgreeResult v (gotCursor P b0 b1 s) (gotCursor P b0 b1 u) := by
  obtain ⟨n, c, as, rfl, hreg, hans⟩ := h
  exact checkCountValue_agree ⟨n, c, as, rfl, hreg, hans⟩

theorem wrotePayload_agree (h : AgreeBut v s u) : AgreeResult v (wrotePayload P c s) (wrotePayload P c u) := by
  simp only [wrotePayload, h.readCount_eq]
  obtain ⟨n, c', as, rfl, hreg, hans⟩ := h
  cases readCount s with
  | error e => exact .error e
  | ok m => exact startWrite_agree ⟨n, c', as, rfl, hreg, hans⟩

theorem wroteCount_agree (h : AgreeBut v s u) : AgreeResult v (wroteCount P c s) (wroteCount P c u) := by
  simp only [wroteCount, h.cursorSlot_eq]
  obtain ⟨n, c', as, rfl, hreg, hans⟩ := h
  cases cursorSlot P s with
  | error e => exact .error e
  | ok a => exact startWrite_agree ⟨s.newCount, c', as, rfl, fun hm => ⟨rfl, (hreg hm).2⟩, hans⟩

theorem afterJob_agree (job : WriteJob) (h : AgreeBut v s u) :
    AgreeResult v (afterJob P c job s) (afterJob P c job u) := by
  cases job with
  | payload => exact wrotePayload_agree h
  | newCount => exact wroteCount_agree h
  | newCursor =>
    obtain ⟨n, c', as, rfl, hreg, hans⟩ := h
    exact .ok ⟨n, s.newCursor, as, rfl, fun hm => ⟨(hreg hm).1, rfl⟩, hans⟩
  | fixCount =>
    obtain ⟨n, c', as, rfl, hreg, hans⟩ := h
    exact checkCursorValue_agree ⟨n, c', as, rfl, hreg, hans⟩
  | fixCursor =>
    obtain ⟨n, c', as, rfl, hreg, hans⟩ := h
    exact .ok (commitBootstrap_agree ⟨n, c', as, rfl, hreg, hans⟩)

theorem afterReadBack_agree (job : WriteJob) (b : Byte) (h : AgreeBut v s u) :
    AgreeResult v (afterReadBack P c job b s) (afterReadBack P c job b u) := by
  simp only [afterReadBack, h.jobTarget_eq]
  obtain ⟨n, c', as, rfl, hreg, hans⟩ := h
  cases jobTarget P job s with
  | error e => exact .error e
  | ok r =>
    obtain ⟨a, b0, b1⟩ := r
    exact .ite
      (.ite (issue_agree ⟨n, c', as, rfl, hreg, hans⟩) (afterJob_agree job ⟨n, c', as, rfl, hreg, hans⟩))
      (.ok ⟨n, c', as, rfl, hreg, hans⟩)

theorem gotOldest_agree (b0 b1 : Byte) (h : AgreeBut v s u) :
    AgreeResult v (gotOldest P b0 b1 s) (gotOldest P b0 b1 u) := by
  simp only [gotOldest, h.readCount_eq]
  obtain ⟨n, c, as, rfl, hreg, hans⟩ := h
  cases readCount s with
  | error e => exact .error e
  | ok m => exact .ite (issue_agree ⟨n, c, as, rfl, hreg, hans⟩) (.ok ⟨n, c, as, rfl, hreg, hans⟩)

theorem gotNewest_agree (b0 b1 : Byte) (h : AgreeBut v s u) :
    AgreeResult v (gotNewest P b0 b1 s) (gotNewest P b0 b1 u) := by
  obtain ⟨n, c, as, rfl, hreg, hans⟩ := h
  exact .ite (issue_agree ⟨n, c, as, rfl, hreg, hans⟩) (.ok ⟨n, c, as, rfl, hreg, hans⟩)

theorem afterRecord_agree (b0 b1 : Byte) (h : AgreeBut v s u) :
    AgreeResult v (afterRecord P c b0 b1 s) (afterRecord P c b0 b1 u) := by
  cases c with
  | lastRecord | recordAt => exact .ok (h.finish ..)
  | traverseOldest => exact gotOldest_agree b0 b1 h
  | traverseNewest => exact gotNewest_agree b0 b1 h
  | init | append | mediumWren | mediumWrdi | mediumRead | mediumWrite | mediumRdsr | mediumWrsr | mediumFastRead
  | mediumSleep | mediumRdid => exact .error _

theorem afterRead2_agree {st : Status} {rx : Bytes} {f : Byte → Byte → State → Except Fault State}
    (h : AgreeBut v s u) (hf : ∀ b0 b1, AgreeResult v (f b0 b1 s) (f b0 b1 u)) :
    AgreeResult v (afterRead2 st rx s f) (afterRead2 st rx u f) := by
  refine .ite (.ok (h.raise st)) ?_
  split
  · exact hf _ _
  · exact .error _

theorem afterExchange_agree {st : Status} {rx : Bytes} (h : AgreeBut v s u) :
    AgreeResult v (afterExchange P c k st rx s) (afterExchange P c k st rx u) := by
  cases k with
  | start => exact .error _
  | readCount => exact afterRead2_agree h fun b0 b1 => gotCount_agree b0 b1 h
  | readCursor => exact afterRead2_agree h fun b0 b1 => gotCursor_agree b0 b1 h
  | readRecord => exact afterRead2_agree h fun b0 b1 => afterRecord_agree b0 b1 h
  | write job g =>
    cases g with
    | readBack =>
      refine .ite (.ok (h.raise st)) ?_
      split
      · exact afterReadBack_agree job _ h
      · exact .error _
    | wren | write | wrdi =>
      simp only [afterExchange]
      split
      · exact issue_agree h
      · exact .ok (h.raise _)

/-! ## Exchanges -/

theorem mediumLatch_agree (b : Bool) (f : Fate) (h : AgreeBut v s u) :
    AgreeBut v (mediumLatch b f s) (mediumLatch b f u) := by
  obtain ⟨n, c, as, rfl, hreg, hans⟩ := h
  cases f with
  | done | lost | leaves | delivers => exact ⟨n, c, as, rfl, hreg, hans⟩

theorem mediumWriteAt_agree (a : Word) (d : Byte) (f : Fate) (h : AgreeBut v s u) :
    AgreeResult v (mediumWriteAt P a d f s) (mediumWriteAt P a d f u) := by
  obtain ⟨n, c, as, rfl, hreg, hans⟩ := h
  refine .ite ?_ (.error _)
  cases f with
  | done | lost | leaves | delivers => exact .ok ⟨n, c, as, rfl, hreg, hans⟩

theorem AgreeBut.mediumReadAt_eq (h : AgreeBut v s u) (a : Word) (n : Nat) (f : Fate) :
    mediumReadAt P a n f u = mediumReadAt P a n f s := by
  obtain ⟨n, c, as, rfl, -, -⟩ := h
  rfl

theorem interruptedFrame_agree (i : Instr) (b : Byte) (h : AgreeBut v s u) :
    AgreeResult v (interruptedFrame P i b s) (interruptedFrame P i b u) := by
  cases i with
  | mediumWrite a d =>
    obtain ⟨n, c, as, rfl, hreg, hans⟩ := h
    exact .ite (.ok ⟨n, c, as, rfl, hreg, hans⟩) (.error _)
  | init | append | lastRecord | recordAt | traverseOldest | traverseNewest => exact .ok h
  | mediumWren | mediumWrdi | mediumRead | mediumRdsr | mediumWrsr | mediumFastRead | mediumSleep | mediumRdid =>
    exact .ok h

/-- A frame faults alike, or sends the same bytes and leaves states that agree. -/
theorem mediumFrame_agree (i : Instr) (f : Fate) (h : AgreeBut v s u) :
    (∃ e, mediumFrame P i f s = .error e ∧ mediumFrame P i f u = .error e) ∨
    (∃ rx t t', mediumFrame P i f s = .ok (rx, t) ∧ mediumFrame P i f u = .ok (rx, t') ∧ AgreeBut v t t') := by
  cases i with
  | mediumWren => exact .inr ⟨_, _, _, rfl, rfl, mediumLatch_agree true f h⟩
  | mediumWrdi => exact .inr ⟨_, _, _, rfl, rfl, mediumLatch_agree false f h⟩
  | mediumRead a n =>
    simp only [mediumFrame, h.mediumReadAt_eq]
    cases mediumReadAt P a n f s with
    | error e => exact .inl ⟨e, rfl, rfl⟩
    | ok rx => exact .inr ⟨rx, s, u, rfl, rfl, h⟩
  | mediumWrite a d =>
    have hw := mediumWriteAt_agree (P := P) a d f h
    simp only [mediumFrame]
    generalize mediumWriteAt P a d f s = r at hw ⊢
    generalize mediumWriteAt P a d f u = r' at hw ⊢
    cases hw with
    | error e => exact .inl ⟨e, rfl, rfl⟩
    | ok ht => exact .inr ⟨_, _, _, rfl, rfl, ht⟩
  | init | append | lastRecord | recordAt | traverseOldest | traverseNewest => exact .inl ⟨_, rfl, rfl⟩
  | mediumRdsr | mediumWrsr | mediumFastRead | mediumSleep | mediumRdid => exact .inl ⟨_, rfl, rfl⟩

theorem AgreeBut.note_release (h : AgreeBut v s u) (x : Exchange) (o : Option TransportOutcome) (rx : Bytes) :
    AgreeBut v (s.note x o rx).release (u.note x o rx).release := by
  obtain ⟨n, c, as, rfl, hreg, hans⟩ := h
  exact ⟨n, c, as, rfl, hreg, hans⟩

/-- A reset block holds nothing in either register. -/
theorem AgreeBut.note_powerCycle (h : AgreeBut v s u) (x : Exchange) (wel : Bool) :
    AgreeBut v ((s.note x none []).powerCycle wel) ((u.note x none []).powerCycle wel) := by
  obtain ⟨n, c, as, rfl, hreg, hans⟩ := h
  exact ⟨0, 0, as, rfl, fun _ => ⟨rfl, rfl⟩, hans⟩

theorem completeExchange_agree (a : Answer) (h : AgreeBut v s u) :
    AgreeResult v (completeExchange P c k a s) (completeExchange P c k a u) := by
  have htr : u.transport = s.transport := by obtain ⟨n, c', as, rfl, -, -⟩ := h; rfl
  simp only [completeExchange, htr]
  cases s.transport with
  | none => exact .error _
  | some x =>
    dsimp only
    cases decodeFrame P x with
    | error r => exact .error _
    | ok i =>
      cases a with
      | powerLoss b wel =>
        have hi := interruptedFrame_agree (P := P) i b h
        dsimp only
        generalize interruptedFrame P i b s = r at hi ⊢
        generalize interruptedFrame P i b u = r' at hi ⊢
        cases hi with
        | error e => exact .error e
        | ok ht => exact .ok (ht.note_powerCycle x wel)
      | returns o f =>
        obtain ⟨e, hs, hu⟩ | ⟨rx, t, t', hs, hu, ht⟩ := mediumFrame_agree (P := P) i f h
        · simp only [hs, hu]
          exact .error e
        · simp only [hs, hu]
          exact afterExchange_agree (ht.note_release ..)

/-- The answers set alike, the rest agrees. -/
theorem AgreeBut.with_answers (h : AgreeBut v s u) (as : List Answer) :
    AgreeBut v { s with answers := as } { u with answers := as } := by
  obtain ⟨n, c, as', rfl, hreg, -⟩ := h
  exact ⟨n, c, as, rfl, hreg, fun _ => rfl⟩

theorem AgreeBut.phase_eq (h : AgreeBut v s u) : u.phase = s.phase := by
  obtain ⟨n, c, as, rfl, -, -⟩ := h
  rfl

theorem runAnswers_agree (as : List Answer) (h : AgreeBut v s u) :
    AgreeResult v (runAnswers P as s) (runAnswers P as u) := by
  induction as generalizing s u with
  | nil => exact .ok h
  | cons a rest ih =>
    obtain hp | ⟨c, k, hp⟩ := phase_cases s
    · rw [runAnswers_idle hp, runAnswers_idle (h.phase_eq.trans hp)]
      exact .ok h
    · rw [runAnswers_cons hp, runAnswers_cons (h.phase_eq.trans hp)]
      have hx := completeExchange_agree (P := P) (c := c) (k := k) a (h.with_answers rest)
      generalize completeExchange P c k a { s with answers := rest } = r at hx ⊢
      generalize completeExchange P c k a { u with answers := rest } = r' at hx ⊢
      cases hx with
      | error e => exact .error e
      | ok ht => exact ih ht

end Sys2Proof.Machine
end

section
/-! Waiting for the transport (R26, R31): a run of exchanges may be cut anywhere among its answers, since no exchange sees
the answers after its own and every wait is past the command's start. -/

namespace Sys2Proof.Machine

variable {P : Params} {c : Instr} {k : Position} {s t u : State}

/-! ## A command that waits is past its start -/

/-- The block is idle or at a position that has an exchange. -/
def PastStart (s : State) : Prop := ∀ c, s.phase ≠ .run c .start

theorem finish_pastStart (s : State) (st : Status) (r : Word) : PastStart (s.finish st r) := fun _ h => Phase.noConfusion h

theorem raise_pastStart (s : State) (st : Status) : PastStart (s.raise st) := finish_pastStart s st 0

theorem issue_pastStart (h : issue P c k s = .ok t) : PastStart t := by
  obtain ⟨x, hx, rfl⟩ := issue_ok h
  rintro c' hp
  cases hp
  cases hx

theorem checkCursorValue_pastStart (h : checkCursorValue P s = .ok t) : PastStart t := by
  unfold checkCursorValue at h
  split at h
  · cases h; exact finish_pastStart _ _ _
  · exact issue_pastStart h

theorem checkCountValue_pastStart (h : checkCountValue P s = .ok t) : PastStart t := by
  unfold checkCountValue at h
  split at h
  · exact checkCursorValue_pastStart h
  · exact issue_pastStart h

theorem wrotePayload_pastStart (h : wrotePayload P c s = .ok t) : PastStart t := by
  unfold wrotePayload at h
  split at h
  · cases h
  · exact issue_pastStart h

theorem wroteCount_pastStart (h : wroteCount P c s = .ok t) : PastStart t := by
  unfold wroteCount at h
  split at h
  · cases h
  · exact issue_pastStart h

theorem afterJob_pastStart {job : WriteJob} (h : afterJob P c job s = .ok t) : PastStart t := by
  cases job with
  | payload => exact wrotePayload_pastStart h
  | newCount => exact wroteCount_pastStart h
  | newCursor => cases h; exact finish_pastStart _ _ _
  | fixCount => exact checkCursorValue_pastStart h
  | fixCursor => cases h; exact finish_pastStart _ _ _

theorem afterReadBack_pastStart {job : WriteJob} {b : Byte} (h : afterReadBack P c job b s = .ok t) : PastStart t := by
  unfold afterReadBack at h
  split at h
  · cases h
  · dsimp only at h
    split at h
    · split at h
      · exact issue_pastStart h
      · exact afterJob_pastStart h
    · cases h; exact raise_pastStart _ _

theorem gotOldest_pastStart {b0 b1 : Byte} (h : gotOldest P b0 b1 s = .ok t) : PastStart t := by
  unfold gotOldest at h
  split at h
  · cases h
  · dsimp only at h
    split at h
    · exact issue_pastStart h
    · cases h; exact finish_pastStart _ _ _

theorem gotNewest_pastStart {b0 b1 : Byte} (h : gotNewest P b0 b1 s = .ok t) : PastStart t := by
  unfold gotNewest at h
  dsimp only at h
  split at h
  · exact issue_pastStart h
  · cases h; exact finish_pastStart _ _ _

theorem afterRecord_pastStart {b0 b1 : Byte} (h : afterRecord P c b0 b1 s = .ok t) : PastStart t := by
  cases c with
  | lastRecord | recordAt => cases h; exact finish_pastStart _ _ _
  | traverseOldest => exact gotOldest_pastStart h
  | traverseNewest => exact gotNewest_pastStart h
  | init | append | mediumWren | mediumWrdi | mediumRead | mediumWrite | mediumRdsr | mediumWrsr | mediumFastRead
  | mediumSleep | mediumRdid => cases h

theorem afterExchange_pastStart {st : Status} {rx : Bytes} (h : afterExchange P c k st rx s = .ok t) : PastStart t := by
  unfold afterExchange at h
  split at h
  · cases h
  · obtain ⟨-, rfl⟩ | ⟨-, b0, b1, -, h⟩ := afterRead2_ok h
    · exact raise_pastStart _ _
    · exact issue_pastStart h
  · obtain ⟨-, rfl⟩ | ⟨-, b0, b1, -, h⟩ := afterRead2_ok h
    · exact raise_pastStart _ _
    · exact checkCountValue_pastStart h
  · obtain ⟨-, rfl⟩ | ⟨-, b0, b1, -, h⟩ := afterRead2_ok h
    · exact raise_pastStart _ _
    · exact afterRecord_pastStart h
  · split at h
    · cases h; exact raise_pastStart _ _
    · split at h
      · exact afterReadBack_pastStart h
      · cases h
  · split at h
    · exact issue_pastStart h
    · cases h; exact raise_pastStart _ _

theorem completeExchange_pastStart {a : Answer} (h : completeExchange P c k a s = .ok t) : PastStart t := by
  obtain ⟨x, i, -, -, ⟨b, w, u, -, -, rfl⟩ | ⟨o, f, rx, u, -, -, ha⟩⟩ := completeExchange_ok h
  · exact fun _ hp => Phase.noConfusion hp
  · exact afterExchange_pastStart ha

theorem runAnswers_pastStart {as : List Answer} (has : s.answers = as) (hs : PastStart s)
    (h : runAnswers P as s = .ok t) : PastStart t :=
  runAnswers_keeps (Q := PastStart) (fun _ _ _ _ _ _ _ _ _ hc => completeExchange_pastStart hc) has hs h

/-! ## Cutting the answers -/

theorem agreeBut_answers (s : State) (as as' : List Answer) :
    AgreeBut .answers { s with answers := as } { s with answers := as' } :=
  ⟨s.count, s.cursor, as', rfl, fun _ => ⟨rfl, rfl⟩, fun h => Unseen.noConfusion h⟩

theorem AgreeBut.eq_with_answers (h : AgreeBut .answers t u) : u = { t with answers := u.answers } := by
  obtain ⟨n, c, as, rfl, hreg, -⟩ := h
  obtain ⟨rfl, rfl⟩ := hreg (.inl rfl)
  rfl

/-- An exchange does not see the answers after its own. -/
theorem completeExchange_answers {a : Answer} {as : List Answer} (as' : List Answer)
    (h : completeExchange P c k a { s with answers := as } = .ok t) :
    completeExchange P c k a { s with answers := as' } = .ok { t with answers := as' } := by
  have hx := completeExchange_agree (P := P) (c := c) (k := k) a (agreeBut_answers s as as')
  rw [h] at hx
  generalize hr : completeExchange P c k a { s with answers := as' } = r at hx ⊢
  cases hx with
  | ok hu =>
    have ha := (completeExchange_channels hr).1
    rw [hu.eq_with_answers, ha]

/-- A run that meets `xs` and then `ys` goes on from where it came to with `xs`. -/
theorem runAnswers_append {xs : List Answer} (ys : List Answer) (has : s.answers = xs)
    (h : runAnswers P xs s = .ok t) :
    runAnswers P (xs ++ ys) { s with answers := xs ++ ys } = runAnswers P ys { t with answers := t.answers ++ ys } := by
  induction xs generalizing s with
  | nil =>
    cases h
    rw [has]
    rfl
  | cons a rest ih =>
    obtain hp | ⟨c, k, hp⟩ := phase_cases s
    · have hp' : ∀ as, ({ s with answers := as } : State).phase = .idle := fun _ => hp
      rw [runAnswers_idle hp] at h
      cases h
      rw [runAnswers_idle (hp' _), runAnswers_idle (hp' _), has]
    · have hp' : ∀ as, ({ s with answers := as } : State).phase = .run c k := fun _ => hp
      rw [runAnswers_cons hp] at h
      rw [List.cons_append, runAnswers_cons (hp' _)]
      cases hc : completeExchange P c k a { s with answers := rest } with
      | error e =>
        rw [hc] at h
        cases h
      | ok u =>
        rw [hc] at h
        rw [completeExchange_answers (rest ++ ys) hc]
        exact ih (completeExchange_channels hc).1 h

/-- Settles O27: the run is cut where the answers end; ended there it takes no more, waiting there it goes on. -/
theorem waitingChangesNothing : Obligations.WaitingChangesNothing := by
  intro s t c k xs ys hp hk h
  have hs : PastStart s := fun c' hp' => by cases hp.symm.trans hp'; exact hk rfl
  rw [step_pastStart (s := { s with answers := xs }) hp hk, outcomeOf_next] at h
  rw [step_pastStart (s := { s with answers := xs ++ ys }) hp hk,
    runAnswers_append ys (s := { s with answers := xs }) rfl h]
  refine ⟨fun ht => ?_, fun ht => ?_⟩
  · rw [runAnswers_idle (s := { t with answers := t.answers ++ ys }) ht, outcomeOf]
  · obtain ⟨c', k', hp'⟩ := (phase_cases t).resolve_left ht
    have hk' : k' ≠ .start := by
      rintro rfl
      exact runAnswers_pastStart (s := { s with answers := xs }) rfl hs h c' hp'
    have hans : t.answers = [] := (runAnswers_ends rfl h).resolve_left ht
    rw [step_pastStart (s := { t with answers := ys }) hp' hk', hans, List.nil_append]

end Sys2Proof.Machine
end

section
/-! No step depends on what COUNT and CURSOR hold while MODE = UNINIT (R22): the relation of `AgreeBut .cached` over
commands, arrivals and steps. -/

namespace Sys2Proof.Machine

variable {P : Params} {c : Instr} {s u : State}

/-! ## Commands -/

theorem AgreeBut.checkMode_eq {v : Unseen} (h : AgreeBut v s u) : checkMode u = checkMode s := by
  obtain ⟨n, c, as, rfl, -, -⟩ := h
  rfl

theorem startAppend_agree {v : Unseen} (level thread : Byte) (code : Word) (h : AgreeBut v s u) :
    AgreeResult v (startAppend P level thread code s) (startAppend P level thread code u) := by
  simp only [startAppend, h.checkMode_eq]
  split
  · exact .ok (h.raise _)
  · split
    · exact .ok (h.raise _)
    · obtain ⟨n, c, as, rfl, hreg, hans⟩ := h
      exact startWrite_agree ⟨n, c, as, rfl, hreg, hans⟩

theorem startLastRecord_agree {v : Unseen} (h : AgreeBut v s u) :
    AgreeResult v (startLastRecord P s) (startLastRecord P u) := by
  simp only [startLastRecord, h.checkMode_eq, h.readCount_eq]
  split
  · exact .ok (h.raise _)
  · split
    · exact .error _
    · split
      · exact .ok (h.raise _)
      · exact issue_agree h

theorem startRecordAt_agree {v : Unseen} (i : Word) (h : AgreeBut v s u) :
    AgreeResult v (startRecordAt P i s) (startRecordAt P i u) := by
  simp only [startRecordAt, h.checkMode_eq, h.readCount_eq]
  split
  · exact .ok (h.raise _)
  · split
    · exact .error _
    · split
      · exact .ok (h.raise _)
      · split
        · exact .ok (h.raise _)
        · exact issue_agree h

theorem AgreeBut.with_index {v : Unseen} (h : AgreeBut v s u) (i : Word) :
    AgreeBut v { s with i := i } { u with i := i } := by
  obtain ⟨n, c, as, rfl, hreg, hans⟩ := h
  exact ⟨n, c, as, rfl, hreg, hans⟩

theorem startTraverseOldest_agree {v : Unseen} (h : AgreeBut v s u) :
    AgreeResult v (startTraverseOldest P s) (startTraverseOldest P u) := by
  simp only [startTraverseOldest, h.checkMode_eq, h.readCount_eq]
  split
  · exact .ok (h.raise _)
  · split
    · exact .error _
    · exact .ite (.ok (h.finish ..)) (issue_agree (h.with_index 1))

theorem startTraverseNewest_agree {v : Unseen} (h : AgreeBut v s u) :
    AgreeResult v (startTraverseNewest P s) (startTraverseNewest P u) := by
  simp only [startTraverseNewest, h.checkMode_eq, h.readCount_eq]
  split
  · exact .ok (h.raise _)
  · split
    · exact .error _
    · exact .ite (.ok (h.finish ..)) (issue_agree (h.with_index _))

/-- INIT leaves BOOT, and what the registers held with it (R178). -/
theorem startInit_agree {v : Unseen} (h : AgreeBut v s u) : AgreeResult v (startInit P s) (startInit P u) := by
  obtain ⟨n, c, as, rfl, hreg, hans⟩ := h
  refine issue_agree ⟨n, c, as, rfl, ?_, hans⟩
  rintro (hv | hm)
  · exact hreg (.inl hv)
  · cases hm

theorem beginCommand_agree {v : Unseen} (h : AgreeBut v s u) :
    AgreeResult v (beginCommand P c s) (beginCommand P c u) := by
  cases c with
  | init => exact startInit_agree h
  | append level thread code => exact startAppend_agree level thread code h
  | lastRecord => exact startLastRecord_agree h
  | recordAt i => exact startRecordAt_agree i h
  | traverseOldest => exact startTraverseOldest_agree h
  | traverseNewest => exact startTraverseNewest_agree h
  | mediumWren | mediumWrdi | mediumRead | mediumWrite | mediumRdsr | mediumWrsr | mediumFastRead | mediumSleep
  | mediumRdid => exact .error _

theorem AgreeBut.answers_eq (h : AgreeBut .cached s u) : u.answers = s.answers := by
  obtain ⟨n, c, as, rfl, -, hans⟩ := h
  exact hans rfl

theorem proceed_agree (h : AgreeBut .cached s u) : AgreeResult .cached (proceed P s) (proceed P u) := by
  simp only [proceed, h.phase_eq]
  split
  · exact .ok h
  · next c _ =>
    have hb := beginCommand_agree (P := P) (c := c) h
    generalize beginCommand P c s = r at hb ⊢
    generalize beginCommand P c u = r' at hb ⊢
    cases hb with
    | error e => exact .error e
    | ok ht =>
      dsimp only
      rw [ht.answers_eq]
      exact runAnswers_agree _ ht
  · rw [h.answers_eq]
    exact runAnswers_agree _ h

/-! ## Arrivals and steps -/

/-- Both fault or refuse alike, or both answer a next state and these agree. -/
inductive AgreeOutcome : Host.Outcome State Fault Refusal → Host.Outcome State Fault Refusal → Prop where
  | next {t u : State} (h : AgreeBut .cached t u) : AgreeOutcome (.next t) (.next u)
  | fault (e : Fault) : AgreeOutcome (.fault e) (.fault e)
  | refused (r : Refusal) : AgreeOutcome (.refused r) (.refused r)

theorem outcomeOf_agree {r r' : Except Fault State} (h : AgreeResult .cached r r') :
    AgreeOutcome (outcomeOf r) (outcomeOf r') := by
  cases h with
  | ok ht => exact .next ht
  | error e => exact .fault e

theorem AgreeBut.accept {i : Instr} (h : AgreeBut .cached s u) :
    AgreeBut .cached (s.accept i) (u.accept i) := by
  obtain ⟨n, c, as, rfl, hreg, hans⟩ := h
  exact ⟨n, c, as, rfl, hreg, hans⟩

theorem AgreeBut.hold_eq (h : AgreeBut .cached s u) : u.hold = s.hold ∧ u.heldFrames = s.heldFrames := by
  obtain ⟨n, c, as, rfl, -, -⟩ := h
  exact ⟨rfl, rfl⟩

theorem AgreeBut.countHeld_note (h : AgreeBut .cached s u) (x : Exchange) (o : Option TransportOutcome) (rx : Bytes) :
    AgreeBut .cached (s.countHeld.note x o rx) (u.countHeld.note x o rx) := by
  obtain ⟨n, c, as, rfl, hreg, hans⟩ := h
  exact ⟨n, c, as, rfl, hreg, hans⟩

theorem carryOut_agree (i : Instr) (h : AgreeBut .cached s u) : AgreeOutcome (carryOut P i s) (carryOut P i u) := by
  have hfate : u.outsideFate = s.outsideFate := by simp only [State.outsideFate, h.hold_eq]
  simp only [carryOut, hfate]
  split
  · exact .fault _
  · obtain ⟨e, hs, hu⟩ | ⟨rx, t, t', hs, hu, ht⟩ := mediumFrame_agree (P := P) i s.outsideFate h
    · simp only [hs, hu]
      exact .fault e
    · simp only [hs, hu]
      exact .next (ht.countHeld_note ..)

/-- An idle block runs any instruction alike. -/
theorem exec_agree (i : Instr) (hp : s.phase = .idle) (h : AgreeBut .cached s u) : AgreeOutcome (exec i s) (exec i u) := by
  cases hi : IsCommand i with
  | true =>
    simp only [exec_command hi, launch, h.phase_eq, hp]
    exact outcomeOf_agree (proceed_agree h.accept)
  | false =>
    obtain he | ⟨r, he⟩ := exec_frame hi
    · rw [he, he]
      exact carryOut_agree i h
    · rw [he, he]
      exact .refused r

theorem onArrival_agree (a : Arrival) (hp : s.phase = .idle) (h : AgreeBut .cached s u) :
    AgreeOutcome (onArrival a s) (onArrival a u) := by
  cases a with
  | command w =>
    cases hd : decodeCommand w with
    | error r =>
      rw [onArrival_illegalCommand hd, onArrival_illegalCommand hd]
      exact .next (h.raise _)
    | ok i =>
      rw [onArrival_command hd, onArrival_command hd]
      exact exec_agree i hp h
  | frame x =>
    cases hd : decodeFrame Config.params x with
    | error r =>
      rw [onArrival_notAFrame hd, onArrival_notAFrame hd]
      exact .refused _
    | ok i =>
      rw [onArrival_frame hd, onArrival_frame hd]
      exact exec_agree i hp h
  | externalByte a b =>
    by_cases ha : a < 32768
    · rw [onArrival_byteInside ha, onArrival_byteInside ha]
      obtain ⟨n, c, as, rfl, hreg, hans⟩ := h
      exact .next ⟨n, c, as, rfl, hreg, hans⟩
    · rw [onArrival_byteBeyond ha, onArrival_byteBeyond ha]
      exact .fault _
  | pins protect hold =>
    obtain ⟨n, c, as, rfl, hreg, hans⟩ := h
    exact .next ⟨n, c, as, rfl, hreg, hans⟩
  | powerCycle wel =>
    obtain ⟨n, c, as, rfl, hreg, hans⟩ := h
    exact .next ⟨0, 0, as, rfl, fun _ => ⟨rfl, rfl⟩, hans⟩

theorem step_agree (h : AgreeBut .cached s u) : AgreeOutcome (step s) (step u) := by
  have hpu := h.phase_eq
  obtain hp | ⟨c, k, hp⟩ := phase_cases s
  · rw [hp] at hpu
    have hq : u.requests = s.requests ∧ u.inbox = s.inbox := by
      obtain ⟨n, c, as, rfl, -, -⟩ := h
      exact ⟨rfl, rfl⟩
    cases hr : s.requests with
    | cons w rest =>
      rw [step_of_request hp hr, step_of_request hpu (hq.1.trans hr)]
      obtain ⟨n, c, as, rfl, hreg, hans⟩ := h
      exact onArrival_agree _ hp ⟨n, c, as, rfl, hreg, hans⟩
    | nil =>
      cases hi : s.inbox with
      | cons a rest =>
        rw [step_of_arrival hp hr hi, step_of_arrival hpu (hq.1.trans hr) (hq.2.trans hi)]
        obtain ⟨n, c, as, rfl, hreg, hans⟩ := h
        exact onArrival_agree _ hp ⟨n, c, as, rfl, hreg, hans⟩
      | nil =>
        rw [step_of_nothing hp hr hi, step_of_nothing hpu (hq.1.trans hr) (hq.2.trans hi)]
        exact .next h
  · rw [step_running hp, step_running (hpu.trans hp)]
    exact outcomeOf_agree (proceed_agree h)

theorem agreeBut_cached (n c : Word) (h : s.mode = .uninit) : AgreeBut .cached s { s with count := n, cursor := c } := by
  refine ⟨n, c, s.answers, rfl, ?_, fun _ => rfl⟩
  rintro (hv | hm)
  · cases hv
  · cases h.symm.trans hm

/-- States that agree but for the cached registers differ at most there, and not at all in BOOT. -/
theorem AgreeBut.cached_only {t u : State} (h : AgreeBut .cached t u) :
    u = { t with count := u.count, cursor := u.cursor } ∧ (t.mode = .boot → u = t) := by
  obtain ⟨n, c, as, rfl, hreg, hans⟩ := h
  obtain rfl := hans rfl
  refine ⟨rfl, fun hm => ?_⟩
  obtain ⟨rfl, rfl⟩ := hreg (.inr hm)
  rfl

/-- Settles O19: the accessors fault in UNINIT, and every step keeps the agreement of two states that differ in the
registers alone. -/
theorem cachedRegistersHoldNoValueBeforeInit : Obligations.CachedRegistersHoldNoValueBeforeInit := by
  refine ⟨fun s hm => ⟨by simp only [readCount, hm], by simp only [readCursor, hm]⟩, fun s n c hm => ?_⟩
  have h := step_agree (agreeBut_cached n c hm)
  generalize step s = o at h ⊢
  generalize step { s with count := n, cursor := c } = o' at h ⊢
  cases h with
  | next ht => exact ht.cached_only
  | fault e => rfl
  | refused r => rfl

end Sys2Proof.Machine
end

section
/-! The addresses of the block's exchanges: every exchange of a command in progress is one of the block's four frames, at
a metadata value or a slot (R56, R96), and a run of exchanges adds no other to the record. -/

namespace Sys2Proof.Machine

variable {c : Instr} {k : Position} {s t : State}

/-! ## The addresses of R56 -/

theorem framedAddr_default {a : Nat} :
    FramedAddr Config.params a ↔ (100 ≤ a ∧ a ≤ 103) ∨ (200 ≤ a ∧ a ≤ 32765) := by
  have hcount : Config.params.metaCountAddr = 100 := rfl
  have hcursor : Config.params.metaCursorAddr = 102 := rfl
  have hstart : Config.params.ringStart = 200 := rfl
  have hlast : Config.params.ringLast = 32764 := rfl
  simp only [FramedAddr, hcount, hcursor, hstart, hlast]
  omega

theorem regionOf_default (a : Nat) : regionOf Config.params a =
    if a ≤ 99 then .config else if a ≤ 199 then .metadata else if a ≤ 32766 then .ring else .aboveRing := rfl

/-- Settles O15: the two intervals of R56 lie in METADATA and in RING. -/
theorem framedAddressesAvoidConfigAndPad : Obligations.FramedAddressesAvoidConfigAndPad := by
  intro a ha
  rw [regionOf_default]
  obtain ⟨hlo, hhi⟩ | ⟨hlo, hhi⟩ := framedAddr_default.mp ha
  · exact .inl ⟨by rw [if_neg (by omega), if_pos (by omega)], hhi⟩
  · exact .inr ⟨by rw [if_neg (by omega), if_neg (by omega), if_pos (by omega)], hhi⟩

/-- Both bytes of a slot may be named (R56). -/
theorem framedAddr_of_validSlot {a : Nat} (h : ValidSlot Config.params a) :
    FramedAddr Config.params a ∧ FramedAddr Config.params (a + 1) := by
  rw [validSlot_default] at h
  rw [framedAddr_default, framedAddr_default]
  omega

/-! ## The block's frames -/

/-- However the exchange ends, its record is one the block may make (R56, R63, R96). -/
def BlockFrame (x : Exchange) : Prop :=
  ∀ (o : Option TransportOutcome) (rx : Bytes),
    blockExchange Config.params { tx := x.tx, n := x.n, outcome := o, rx := rx }

theorem blockFrame_wren : BlockFrame (oneByteFrame Config.params.opcodes.wren) := fun _ _ => trivial

theorem blockFrame_wrdi : BlockFrame (oneByteFrame Config.params.opcodes.wrdi) := fun _ _ => trivial

theorem blockFrame_readOne {a : Word} (h : FramedAddr Config.params a.toNat) :
    BlockFrame (readFrame Config.params a 1) := fun o rx => by
  rw [blockExchange, decodeFrame_readOne]
  exact ⟨h, h⟩

theorem blockFrame_readTwo {a : Word} (h : FramedAddr Config.params a.toNat)
    (h' : FramedAddr Config.params (a.toNat + 1)) : BlockFrame (readFrame Config.params a 2) := fun o rx => by
  rw [blockExchange, decodeFrame_readTwo]
  exact ⟨h, h'⟩

theorem blockFrame_write {a : Word} (d : Byte) (h : FramedAddr Config.params a.toNat) :
    BlockFrame (writeFrame Config.params a d) := fun o rx => by
  rw [blockExchange, decodeFrame_write]
  exact h

/-! ## The exchange of a position -/

/-- Both bytes of a write may be named: they are a metadata value's or a slot's. -/
theorem jobTarget_framed {job : WriteJob} {g : GateStep} (h : CommandReady Config.params c (.write job g) s) :
    ∃ a b0 b1, jobTarget Config.params job s = .ok (a, b0, b1) ∧
      FramedAddr Config.params a ∧ FramedAddr Config.params (a + 1) := by
  obtain ⟨-, ⟨-, -, rfl | ⟨rfl, -⟩⟩ | ⟨-, hr, rfl | ⟨rfl, -⟩ | ⟨rfl, -⟩⟩⟩ := commandReady_write h
  · exact ⟨_, _, _, rfl, by decide⟩
  · exact ⟨_, _, _, rfl, by decide⟩
  · exact ⟨_, s.hi, s.lo, by simp only [jobTarget, readCursor_boot hr.1], framedAddr_of_validSlot hr.2.2⟩
  · exact ⟨_, _, _, rfl, by decide⟩
  · exact ⟨_, _, _, rfl, by decide⟩

/-- The address of the byte a write is at. -/
theorem byteAddress_framed {a : Nat} (h : FramedAddr Config.params a ∧ FramedAddr Config.params (a + 1))
    (hj : ByteIndexOk s) : FramedAddr Config.params (BitVec.ofNat 16 (a + s.j.toNat) : Word).toNat := by
  rw [framedAddr_default, framedAddr_default] at h
  have hj' : s.j.toNat ≤ 1 := by obtain hj | hj := hj <;> rw [hj] <;> decide
  rw [framedAddr_default, BitVec.toNat_ofNat]
  omega

/-- Every exchange of the block is one of its four frames, at an address of R56. -/
theorem exchangeAt_blockFrame (h : CommandReady Config.params c k s) :
    ∃ x, exchangeAt Config.params c k s = .ok x ∧ BlockFrame x := by
  cases k with
  | start => exact (not_commandReady_start h).elim
  | readCount => exact ⟨_, rfl, blockFrame_readTwo (by decide) (by decide)⟩
  | readCursor => exact ⟨_, rfl, blockFrame_readTwo (by decide) (by decide)⟩
  | readRecord =>
    obtain ⟨a, ha, hv⟩ := recordAddr_ready h
    have hframed := framedAddr_of_validSlot hv
    rw [← (validSlot_toNat hv).1] at hframed
    exact ⟨_, by simp only [exchangeAt, ha], blockFrame_readTwo hframed.1 hframed.2⟩
  | write job g =>
    obtain ⟨a, b0, b1, hjob, ha⟩ := jobTarget_framed h
    have haddr := byteAddress_framed ha (commandReady_write h).1
    simp only [exchangeAt, writeExchange, hjob]
    cases g with
    | wren => exact ⟨_, rfl, blockFrame_wren⟩
    | write => exact ⟨_, rfl, blockFrame_write _ haddr⟩
    | wrdi => exact ⟨_, rfl, blockFrame_wrdi⟩
    | readBack => exact ⟨_, rfl, blockFrame_readOne haddr⟩

/-! ## Runs of exchanges -/

/-- The exchanges made between the two states are the block's. -/
def AddsBlockExchanges (s t : State) : Prop :=
  ∃ l, t.exchanges = s.exchanges ++ l ∧ ∀ r ∈ l, blockExchange Config.params r

theorem addsBlockExchanges_of_eq (h : t.exchanges = s.exchanges) : AddsBlockExchanges s t :=
  ⟨[], by rw [h, List.append_nil], fun _ hr => absurd hr List.not_mem_nil⟩

theorem AddsBlockExchanges.trans {u : State} (h : AddsBlockExchanges s t) (h' : AddsBlockExchanges t u) :
    AddsBlockExchanges s u := by
  obtain ⟨l, hl, hblock⟩ := h
  obtain ⟨l', hl', hblock'⟩ := h'
  exact ⟨l ++ l', by rw [hl', hl, List.append_assoc], List.forall_mem_append.mpr ⟨hblock, hblock'⟩⟩

/-- An exchange of a running command records the exchange its position put on the transport. -/
theorem completeExchange_addsBlockExchanges {a : Answer} (h : Inv Config.params s) (hp : s.phase = .run c k)
    (hc : completeExchange Config.params c k a s = .ok t) : AddsBlockExchanges s t := by
  obtain ⟨hready, -, htr⟩ := (blockOk_running hp).mp h.2
  obtain ⟨x, hx, hblock⟩ := exchangeAt_blockFrame hready
  obtain ⟨-, -, -, -, -, y, o, rx, hy, hex⟩ := completeExchange_channels hc
  obtain rfl : x = y := Option.some.inj ((congrArg Except.toOption hx).symm.trans (htr.trans hy))
  exact ⟨_, hex, List.forall_mem_singleton.mpr (hblock o rx)⟩

theorem runAnswers_addsBlockExchanges (h : Inv Config.params s) (hrun : runAnswers Config.params s.answers s = .ok t) :
    AddsBlockExchanges s t := by
  refine (runAnswers_keeps (Q := fun u => Inv Config.params u ∧ AddsBlockExchanges s u) ?_ rfl
    ⟨h, addsBlockExchanges_of_eq rfl⟩ hrun).2
  intro c k a rest u v ⟨hinv, hadds⟩ hp _ hc
  have hinv' : Inv Config.params { u with answers := rest } := inv_answers rest hinv
  obtain ⟨w, hw, hwinv⟩ := completeExchange_inv a hinv' hp
  obtain rfl : w = v := Except.ok.inj (hw.symm.trans hc)
  exact ⟨hwinv, hadds.trans (completeExchange_addsBlockExchanges (s := { u with answers := rest }) hinv' hp hc)⟩

/-- Beginning a command keeps the invariant. -/
theorem beginCommand_inv (hi : IsCommand c = true) (hp : s.phase = .idle) (h : Inv Config.params s)
    (hb : beginCommand Config.params c (s.accept c) = .ok t) : Inv Config.params t := by
  obtain ⟨u, hu, hblock⟩ := settles_beginCommand (s := s.accept c) hi ((blockOk_idle hp).mp h.2).2
  obtain rfl : u = t := Except.ok.inj (hu.symm.trans hb)
  refine ⟨?_, hblock⟩
  rw [MediumOk, (beginCommand_keeps hb).mem]
  exact h.1

/-- Settles O55: a command begins without an exchange, and from a state that meets the invariant a run of exchanges
records only the block's frames. -/
theorem blockIssuesOnlyItsFrames : Obligations.BlockIssuesOnlyItsFrames := by
  refine fun s t h => ⟨fun i hi hp hn => ?_, fun c k hp hn => ?_⟩
  · rw [exec_command hi] at hn
    obtain ⟨c', k, hrun, -⟩ | ⟨-, u, hu, hrun⟩ := launch_next hn
    · cases hp.symm.trans hrun
    · have hk := beginCommand_keeps hu
      rw [show s.answers = u.answers from hk.answers.symm] at hrun
      exact (addsBlockExchanges_of_eq hk.exchanges).trans
        (runAnswers_addsBlockExchanges (beginCommand_inv hi hp h hu) hrun)
  · have hk : k ≠ .start := fun hk => not_commandReady_start (hk ▸ ((blockOk_running hp).mp h.2).1)
    rw [step_pastStart hp hk, outcomeOf_next] at hn
    exact runAnswers_addsBlockExchanges h hn

end Sys2Proof.Machine
end

section
/-! Another agent's frame at a medium whose "hold" input is inactive (R65), and past its end (R50, log 4). -/

namespace Sys2Proof.Machine

variable {P : Params} {s : State}

theorem Mem.readBytes_eq_map (e : Byte) (m : Mem) (a n : Nat) :
    Mem.readBytes e m a n = (List.range n).map fun k => Mem.read e m (a + k) := by
  induction n generalizing a with
  | zero => rfl
  | succ n ih =>
    simp [Mem.readBytes, ih, List.range_succ_eq_map, Nat.add_assoc, Nat.add_comm 1]

/-- What a frame on its own comes to while "hold" is inactive: the frame's effect as R65 gives it, and the record. -/
theorem carryOut_unheld {i : Instr} {x : Exchange} {rx : Bytes} {u : State} (hh : s.hold = false)
    (hx : encode P i = .exchange x) (hm : mediumFrame P i .done s = .ok (rx, u)) :
    carryOut P i s = .next
      { s with mem := u.mem, wel := u.wel, exchanges := s.exchanges ++ [completed x .ok rx] } := by
  rw [← outsideFate_unheld hh] at hm
  rw [carryOut_of_mediumFrame hx hm]
  have hu : MediumOnly s u := (mediumFrame_ok hm).1
  rw [MediumOnly] at hu
  rw [hu, countHeld_unheld (s := { s with mem := u.mem, wel := u.wel }) hh]
  rfl

theorem carryOut_fault {i : Instr} {x : Exchange} {e : Fault} (hx : encode P i = .exchange x)
    (hm : mediumFrame P i s.outsideFate s = .error e) : carryOut P i s = .fault e := by
  simp only [carryOut, hx, hm]

/-! ## The frames of the default medium -/

theorem mediumFrame_readDone {a : Word} {n : Nat} (hh : s.hold = false) (h : a.toNat + n ≤ 32768) :
    mediumFrame Config.params (.mediumRead a n) .done s =
      .ok ((List.range n).map fun k => s.byte (a.toNat + k), s) := by
  simp only [mediumFrame, mediumReadAt_unheld .done hh (show a.toNat + n ≤ Config.params.mediumBytes from h),
    Mem.readBytes_eq_map, State.byte]

theorem mediumFrame_writeDone {a : Word} (h : a.toNat < 32768) (d : Byte) (s : State) :
    mediumFrame Config.params (.mediumWrite a d) .done s = .ok ([],
      { s with
        mem := if s.writable then Mem.write Config.params.eraseValue s.mem a.toNat d else s.mem, wel := false }) := by
  simp only [mediumFrame, mediumWriteAt, if_pos (show a.toNat < Config.params.mediumBytes from h)]

theorem mediumFrame_readBeyond {a : Word} {n : Nat} (h : 32768 < a.toNat + n) (f : Fate) (s : State) :
    mediumFrame Config.params (.mediumRead a n) f s = .error (.beyondMedium (a.toNat + n - 1)) := by
  simp only [mediumFrame, mediumReadAt_beyond (Nat.not_le.mpr h)]

theorem mediumFrame_writeBeyond {a : Word} (h : 32768 ≤ a.toNat) (d : Byte) (f : Fate) (s : State) :
    mediumFrame Config.params (.mediumWrite a d) f s = .error (.beyondMedium a.toNat) := by
  simp only [mediumFrame, mediumWriteAt_beyond (Nat.not_lt.mpr h)]

theorem writable_iff : s.writable = true ↔ s.wel = true ∧ s.protect = false := by simp [State.writable]

/-- What a WRITE leaves at each address: its own byte is stored if the medium is writable, the others stand (R65). -/
theorem read_writeDone (a : Nat) (d : Byte) (hm : MediumOk Config.params s) (x : Nat) :
    Mem.read Config.params.eraseValue
        (if s.writable then Mem.write Config.params.eraseValue s.mem a d else s.mem) x =
      if x = a ∧ s.wel = true ∧ s.protect = false then d else s.byte x := by
  simp only [← writable_iff]
  by_cases hw : s.writable = true
  · simp only [hw, if_true, and_true]
    exact Mem.read_write a d x hm.1
  · rw [if_neg hw, if_neg fun hx => hw hx.2, State.byte]

/-! ## The statements -/

/-- Settles O20: each frame is carried out with the fate `done`, inside the medium always with an answer. -/
theorem mediumFramesActAsR65 : Obligations.MediumFramesActAsR65 := by
  intro s a d hh hm
  refine ⟨?_, ?_, fun n hn ha => ?_, fun ha => ?_⟩
  · exact carryOut_unheld (i := .mediumWren) hh rfl rfl
  · exact carryOut_unheld (i := .mediumWrdi) hh rfl rfl
  · exact carryOut_unheld hh rfl (mediumFrame_readDone hh ha)
  · exact ⟨_, carryOut_unheld hh rfl (mediumFrame_writeDone ha d s), rfl, read_writeDone a.toNat d hm⟩

/-- Settles O21: the medium answers no frame that passes its end, whatever the frame's fate. -/
theorem framesBeyondTheMediumStopByName : Obligations.FramesBeyondTheMediumStopByName := fun s a d n =>
  ⟨fun ha => carryOut_fault (i := .mediumRead a n) rfl (mediumFrame_readBeyond ha s.outsideFate s),
   fun ha => carryOut_fault (i := .mediumWrite a d) rfl (mediumFrame_writeBeyond ha d s.outsideFate s)⟩

end Sys2Proof.Machine
end

section
/-! Illegal command words (R85): the decoder refuses exactly them, and an idle block answers each with one beat. The five
medium commands without an effect given (R97, R213). -/

namespace Sys2Proof.Machine

variable {w : CommandWord}

/-! ## Which words are illegal -/

/-- Bits cut in two: all are zero just if those of the high and of the low part are. -/
theorem extractLsb'_add_eq_zero_iff {k : Nat} (v : BitVec k) (start m n : Nat) :
    v.extractLsb' start (m + n) = 0#(m + n) ↔ v.extractLsb' (start + n) m = 0#m ∧ v.extractLsb' start n = 0#n := by
  rw [← BitVec.extractLsb'_append_extractLsb'_eq_extractLsb' (rfl : start + n = start + n)]
  constructor
  · intro h
    exact ⟨by simpa [BitVec.extractLsb'_append_eq_left] using congrArg (·.extractLsb' n m) h,
      by simpa [BitVec.extractLsb'_append_eq_right] using congrArg (·.extractLsb' 0 n) h⟩
  · rintro ⟨hm, hn⟩
    rw [hm, hn, BitVec.zero_append_zero]

theorem cmdBC_eq_zero_iff : w.extractLsb' 0 16 = 0#16 ↔ cmdB w = 0 ∧ cmdC w = 0 :=
  extractLsb'_add_eq_zero_iff w 0 8 8

theorem cmdABC_eq_zero_iff : w.extractLsb' 0 32 = 0#32 ↔ cmdA w = 0 ∧ cmdB w = 0 ∧ cmdC w = 0 :=
  (extractLsb'_add_eq_zero_iff w 0 16 16).trans (and_congr_right' cmdBC_eq_zero_iff)

/-- The fields of a legal command word (R81-R84). -/
def LegalFields (w : CommandWord) : Prop :=
  cmdRsv w = 0 ∧
  (cmdOp w = 2 ∨
   (cmdOp w = 4 ∧ cmdB w = 0 ∧ cmdC w = 0) ∨
   ((cmdOp w = 1 ∨ cmdOp w = 3 ∨ cmdOp w = 5 ∨ cmdOp w = 6) ∧ cmdA w = 0 ∧ cmdB w = 0 ∧ cmdC w = 0))

theorem legalFields_iff : LegalFields w ↔ ¬ IllegalWord w := by
  have hop : w.extractLsb' 56 8 = cmdOp w := rfl
  have hrsv : w.extractLsb' 32 24 = cmdRsv w := rfl
  simp only [LegalFields, IllegalWord, hop, hrsv, List.mem_cons, List.not_mem_nil, or_false, ne_eq, cmdBC_eq_zero_iff,
    cmdABC_eq_zero_iff]
  grind

/-! ## What the decoder refuses -/

theorem noOperand_zero {i : Instr} (h : cmdA w = 0 ∧ cmdB w = 0 ∧ cmdC w = 0) : noOperand w i = .ok i := if_pos h

theorem decodeCommand_ok_iff : (∃ i, decodeCommand w = .ok i) ↔ LegalFields w := by
  constructor
  · rintro ⟨i, h⟩
    obtain ⟨hrsv, ⟨ho, -⟩ | ⟨ho, -, hz⟩ | ⟨hop, hz⟩⟩ := decodeCommand_ok h
    · exact ⟨hrsv, .inl ho⟩
    · exact ⟨hrsv, .inr (.inl ⟨ho, hz⟩)⟩
    · exact ⟨hrsv, .inr (.inr ⟨by tauto, hz⟩)⟩
  · rintro ⟨hrsv, ho | ⟨ho, hz⟩ | ⟨ho | ho | ho | ho, hz⟩⟩
    · simp [decodeCommand, hrsv, ho]
    · simp [decodeCommand, hrsv, ho, hz]
    all_goals simp [decodeCommand, hrsv, ho, noOperand_zero hz]

theorem decodeCommand_error_iff : (∃ r, decodeCommand w = .error r) ↔ IllegalWord w := by
  rw [← not_iff_not, ← legalFields_iff, ← decodeCommand_ok_iff]
  cases decodeCommand w <;> simp

/-! ## What the block answers -/

/-- The beat of an illegal word: STATUS 8, LAST 1, RECORD 0 (R86, R87). -/
theorem rejectCommand_eq_answered (s : State) : s.rejectCommand = s.answered 0x88000000#32 := rfl

theorem onArrival_illegalWord (h : IllegalWord w) (s : State) :
    onArrival (.command w) s = .next (s.answered 0x88000000#32) := by
  obtain ⟨r, hr⟩ := decodeCommand_error_iff.mpr h
  rw [onArrival_illegalCommand hr, rejectCommand_eq_answered]

/-- Settles O5: the decoder accepts just the legal fields, and either channel hands the word to the same arrival. -/
theorem illegalWordsAreAnsweredAsR85 : Obligations.IllegalWordsAreAnsweredAsR85 := by
  refine ⟨fun _ => decodeCommand_error_iff, fun s w hp hw => ⟨fun rest hr => ?_, fun rest hr hi => ?_⟩⟩
  · rw [step_of_request hp hr, onArrival_illegalWord hw]
  · rw [step_of_arrival hp hr hi, onArrival_illegalWord hw]

/-- Settles O23: each of the five has a refusal of its own as its whole meaning. -/
theorem unissuedMediumCommandsAreRefused : Obligations.UnissuedMediumCommandsAreRefused :=
  fun _ => ⟨rfl, rfl, rfl, rfl, rfl⟩

end Sys2Proof.Machine
end

section
/-! The write gate's rules (R111-R113): which exchange each step of the gate issues, and what follows its status. -/

namespace Sys2Proof.Machine

variable {P : Params} {c : Instr} {job : WriteJob} {g g' : GateStep} {st : Status} {rx : Bytes} {s : State} {a : Nat}
  {b0 b1 : Byte}

/-! ## The exchange of a gate step -/

theorem exchangeAt_wren (hjob : jobTarget P job s = .ok (a, b0, b1)) :
    exchangeAt P c (.write job .wren) s = .ok (oneByteFrame P.opcodes.wren) := by
  simp only [exchangeAt, writeExchange, hjob]

theorem exchangeAt_write (hjob : jobTarget P job s = .ok (a, b0, b1)) : exchangeAt P c (.write job .write) s =
    .ok (writeFrame P (BitVec.ofNat 16 (a + s.j.toNat)) (byteAt s.j b0 b1)) := by
  simp only [exchangeAt, writeExchange, hjob]

theorem exchangeAt_wrdi (hjob : jobTarget P job s = .ok (a, b0, b1)) (r : Status) :
    exchangeAt P c (.write job (.wrdi r)) s = .ok (oneByteFrame P.opcodes.wrdi) := by
  simp only [exchangeAt, writeExchange, hjob]

/-! ## What follows an exchange of the gate -/

theorem gateNext_wren_ok : gateNext .wren .ok = .goTo .write := rfl

theorem gateNext_wren_failed (h : st ≠ .ok) : gateNext .wren st = .goTo (.wrdi st) := if_neg h

/-- The window's status is the first failure in time: what came before the WRDI, else the WRDI's own (R113). -/
theorem gateNext_wrdi_fails {r : Status} (h : r ≠ .ok ∨ st ≠ .ok) :
    gateNext (.wrdi r) st = .fails (if r = .ok then st else r) := by
  by_cases hr : r = .ok
  · simp [gateNext, hr, h.resolve_left (not_not.mpr hr)]
  · simp [gateNext, hr]

theorem gateNext_wrdi_ok : gateNext (.wrdi .ok) .ok = .goTo .readBack := rfl

/-- A gate that goes on issues the exchange of its next step (R111). -/
theorem afterExchange_goTo (h : gateNext g st = .goTo g') :
    afterExchange P c (.write job g) st rx s = issue P c (.write job g') s := by
  cases g with
  | wren | write | wrdi => simp only [afterExchange, h]
  | readBack => cases h

/-- A gate that has failed ends the command with its status (R112, R113). -/
theorem afterExchange_fails {st' : Status} (h : gateNext g st = .fails st') (hg : g ≠ .readBack) :
    afterExchange P c (.write job g) st rx s = .ok (s.raise st') := by
  cases g with
  | wren | write | wrdi => simp only [afterExchange, h]
  | readBack => exact absurd rfl hg

end Sys2Proof.Machine
end

section
/-! The write gate over every step of the block (R110-R115): each exchange carries the opcode of the position that waits
for it, so its record moves the window as PHASE moves, and what the block does between exchanges opens no window. -/

namespace Sys2Proof.Machine

variable {P : Params} {c : Instr} {k : Position} {job : WriteJob} {g : GateStep} {st : Status} {rx : Bytes}
  {s t : State} {r : ExchangeRecord}

/-! ## The window after an exchange of the block -/

/-- The opcode of the exchange a position waits for (R95, R111, R130); at its start a command waits for none. -/
def Position.opcode (P : Params) : Position → Byte
  | .start | .readCount | .readCursor | .readRecord | .write _ .readBack => P.opcodes.read
  | .write _ .wren => P.opcodes.wren
  | .write _ .write => P.opcodes.write
  | .write _ (.wrdi _) => P.opcodes.wrdi

theorem exchangeAt_opcode {x : Exchange} (h : exchangeAt P c k s = .ok x) : x.tx.head? = some (k.opcode P) := by
  cases k with
  | start => cases h
  | readCount | readCursor => cases h; rfl
  | readRecord =>
    simp only [exchangeAt] at h
    split at h
    · cases h
    · cases h; rfl
  | write job g =>
    simp only [exchangeAt, writeExchange] at h
    split at h
    · cases h
    · cases g <;> cases h <;> rfl

theorem isOp_of_head {op : Byte} (h : r.tx.head? = some op) (op' : Byte) : r.isOp op' = (op == op') := by
  simp [ExchangeRecord.isOp, h]

theorem Window.after_read (h : r.tx.head? = some Config.params.opcodes.read) :
    Window.closed.after Config.params r = some .closed := by
  simp [Window.after, isOp_of_head h, Config.params]

theorem Window.after_wren_ok (h : r.tx.head? = some Config.params.opcodes.wren) (ho : r.outcome = some .ok) :
    Window.closed.after Config.params r = some .armed := by
  simp [Window.after, isOp_of_head h, Config.params, ho]

theorem Window.after_wren_failed {o : TransportOutcome} (h : r.tx.head? = some Config.params.opcodes.wren)
    (ho : r.outcome = some o) (hne : o ≠ .ok) : Window.closed.after Config.params r = some .closing := by
  simp [Window.after, isOp_of_head h, Config.params, ho]

theorem Window.after_write {o : TransportOutcome} (h : r.tx.head? = some Config.params.opcodes.write)
    (ho : r.outcome = some o) : Window.armed.after Config.params r = some .closing := by
  simp [Window.after, isOp_of_head h, ho]

theorem Window.after_wrdi (h : r.tx.head? = some Config.params.opcodes.wrdi) :
    Window.closing.after Config.params r = some .closed := by
  simp [Window.after, isOp_of_head h]

/-- Power lost inside any exchange of the block leaves no window open (R232). -/
theorem Window.after_powerLoss (h : r.tx.head? = some (k.opcode Config.params)) (ho : r.outcome = none) :
    (windowOf (.run c k)).after Config.params r = some .closed := by
  cases k with
  | start | readCount | readCursor | readRecord => exact Window.after_read h
  | write job g =>
    cases g with
    | wren => simp [windowOf, Window.after, isOp_of_head h, Position.opcode, Config.params, ho]
    | write => simp [windowOf, Window.after, isOp_of_head h, Position.opcode, ho]
    | wrdi st => exact Window.after_wrdi h
    | readBack => exact Window.after_read h

/-! ## The exchange in progress -/

/-- The exchange in progress carries the opcode of the position that waits for it. -/
def OnTransport (P : Params) (s : State) : Prop :=
  ∀ c k x, s.phase = .run c k → s.transport = some x → x.tx.head? = some (k.opcode P)

theorem onTransport_idle (h : s.phase = .idle) : OnTransport P s := fun _ _ _ hp => by cases h.symm.trans hp

theorem onTransport_issue (h : issue P c k s = .ok t) : OnTransport P t := by
  obtain ⟨x, hx, rfl⟩ := issue_ok h
  intro c' k' x' hp hx'
  cases hp
  cases hx'
  exact exchangeAt_opcode hx

theorem onTransport_of_inv (h : Inv Config.params s) : OnTransport Config.params s := by
  intro c k x hp hx
  obtain ⟨hready, -, htr⟩ := (blockOk_running hp).mp h.2
  obtain ⟨y, hy, -⟩ := exchangeAt_blockFrame hready
  obtain rfl : y = x := Option.some.inj ((congrArg Except.toOption hy).symm.trans (htr.trans hx))
  exact exchangeAt_opcode hy

/-! ## Between exchanges -/

/-- What the operation answers, if it answers, stands outside every window: at no WRITE and at no WRDI. -/
def StaysOutside (P : Params) (res : Except Fault State) : Prop :=
  ∀ t, res = .ok t → windowOf t.phase = .closed ∧ OnTransport P t

theorem staysOutside_error (e : Fault) : StaysOutside P (.error e) := fun _ h => by cases h

theorem staysOutside_idle (h : s.phase = .idle) : StaysOutside P (.ok s) := fun _ ht => by
  cases ht
  exact ⟨by rw [h]; rfl, onTransport_idle h⟩

theorem staysOutside_issue (h : windowOf (.run c k) = .closed) : StaysOutside P (issue P c k s) := fun t ht => by
  refine ⟨?_, onTransport_issue ht⟩
  obtain ⟨x, -, rfl⟩ := issue_ok ht
  exact h

theorem staysOutside_checkCursorValue : StaysOutside P (checkCursorValue P s) := by
  unfold checkCursorValue
  split
  · exact staysOutside_idle rfl
  · exact staysOutside_issue rfl

theorem staysOutside_checkCountValue : StaysOutside P (checkCountValue P s) := by
  unfold checkCountValue
  split
  · exact staysOutside_checkCursorValue
  · exact staysOutside_issue rfl

theorem staysOutside_wrotePayload : StaysOutside P (wrotePayload P c s) := by
  unfold wrotePayload
  split
  · exact staysOutside_error _
  · exact staysOutside_issue rfl

theorem staysOutside_wroteCount : StaysOutside P (wroteCount P c s) := by
  unfold wroteCount
  split
  · exact staysOutside_error _
  · exact staysOutside_issue rfl

theorem staysOutside_afterJob (job : WriteJob) : StaysOutside P (afterJob P c job s) := by
  cases job with
  | payload => exact staysOutside_wrotePayload
  | newCount => exact staysOutside_wroteCount
  | newCursor | fixCursor => exact staysOutside_idle rfl
  | fixCount => exact staysOutside_checkCursorValue

theorem staysOutside_afterReadBack (b : Byte) : StaysOutside P (afterReadBack P c job b s) := by
  unfold afterReadBack
  split
  · exact staysOutside_error _
  · dsimp only
    split
    · split
      · exact staysOutside_issue rfl
      · exact staysOutside_afterJob job
    · exact staysOutside_idle rfl

theorem staysOutside_gotOldest (b0 b1 : Byte) : StaysOutside P (gotOldest P b0 b1 s) := by
  unfold gotOldest
  split
  · exact staysOutside_error _
  · dsimp only
    split
    · exact staysOutside_issue rfl
    · exact staysOutside_idle rfl

theorem staysOutside_gotNewest (b0 b1 : Byte) : StaysOutside P (gotNewest P b0 b1 s) := by
  unfold gotNewest
  dsimp only
  split
  · exact staysOutside_issue rfl
  · exact staysOutside_idle rfl

theorem staysOutside_afterRecord (b0 b1 : Byte) : StaysOutside P (afterRecord P c b0 b1 s) := by
  cases c with
  | lastRecord | recordAt => exact staysOutside_idle rfl
  | traverseOldest => exact staysOutside_gotOldest b0 b1
  | traverseNewest => exact staysOutside_gotNewest b0 b1
  | init | append | mediumWren | mediumWrdi | mediumRead | mediumWrite | mediumRdsr | mediumWrsr | mediumFastRead
  | mediumSleep | mediumRdid => exact staysOutside_error _

theorem staysOutside_afterRead2 {f : Byte → Byte → State → Except Fault State}
    (hf : ∀ b0 b1, StaysOutside P (f b0 b1 s)) : StaysOutside P (afterRead2 st rx s f) := by
  unfold afterRead2
  split
  · exact staysOutside_idle rfl
  · split
    · exact hf _ _
    · exact staysOutside_error _

/-- The step after a READ: of a metadata value, of a record, or of the byte just written. -/
theorem staysOutside_afterExchange_read (hk : k.received ≠ 0) : StaysOutside P (afterExchange P c k st rx s) := by
  cases k with
  | start => exact absurd rfl hk
  | readCount => exact staysOutside_afterRead2 fun _ _ => staysOutside_issue rfl
  | readCursor => exact staysOutside_afterRead2 fun _ _ => staysOutside_checkCountValue
  | readRecord => exact staysOutside_afterRead2 staysOutside_afterRecord
  | write job g =>
    cases g with
    | wren | write | wrdi => exact absurd rfl hk
    | readBack =>
      dsimp only [afterExchange]
      split
      · exact staysOutside_idle rfl
      · split
        · exact staysOutside_afterReadBack _
        · exact staysOutside_error _

/-- The step after the closing WRDI: the read-back, or the end of the command. -/
theorem staysOutside_afterExchange_wrdi (r : Status) :
    StaysOutside P (afterExchange P c (.write job (.wrdi r)) st rx s) := by
  by_cases hok : r = .ok ∧ st = .ok
  · obtain ⟨rfl, rfl⟩ := hok
    rw [afterExchange_goTo gateNext_wrdi_ok]
    exact staysOutside_issue rfl
  · rw [afterExchange_fails (gateNext_wrdi_fails (not_and_or.mp hok)) GateStep.noConfusion]
    exact staysOutside_idle rfl

theorem staysOutside_startAppend (level thread : Byte) (code : Word) :
    StaysOutside P (startAppend P level thread code s) := by
  unfold startAppend
  split
  · exact staysOutside_idle rfl
  · split
    · exact staysOutside_idle rfl
    · exact staysOutside_issue rfl

theorem staysOutside_startLastRecord : StaysOutside P (startLastRecord P s) := by
  unfold startLastRecord
  split
  · exact staysOutside_idle rfl
  · split
    · exact staysOutside_error _
    · split
      · exact staysOutside_idle rfl
      · exact staysOutside_issue rfl

theorem staysOutside_startRecordAt (i : Word) : StaysOutside P (startRecordAt P i s) := by
  unfold startRecordAt
  split
  · exact staysOutside_idle rfl
  · split
    · exact staysOutside_error _
    · split
      · exact staysOutside_idle rfl
      · split
        · exact staysOutside_idle rfl
        · exact staysOutside_issue rfl

theorem staysOutside_startTraverseOldest : StaysOutside P (startTraverseOldest P s) := by
  unfold startTraverseOldest
  split
  · exact staysOutside_idle rfl
  · split
    · exact staysOutside_error _
    · split
      · exact staysOutside_idle rfl
      · exact staysOutside_issue rfl

theorem staysOutside_startTraverseNewest : StaysOutside P (startTraverseNewest P s) := by
  unfold startTraverseNewest
  split
  · exact staysOutside_idle rfl
  · split
    · exact staysOutside_error _
    · split
      · exact staysOutside_idle rfl
      · exact staysOutside_issue rfl

theorem staysOutside_beginCommand : StaysOutside P (beginCommand P c s) := by
  cases c with
  | init => exact staysOutside_issue (k := .readCount) rfl
  | append level thread code => exact staysOutside_startAppend level thread code
  | lastRecord => exact staysOutside_startLastRecord
  | recordAt i => exact staysOutside_startRecordAt i
  | traverseOldest => exact staysOutside_startTraverseOldest
  | traverseNewest => exact staysOutside_startTraverseNewest
  | mediumWren | mediumWrdi | mediumRead | mediumWrite | mediumRdsr | mediumWrsr | mediumFastRead | mediumSleep
  | mediumRdid => exact staysOutside_error _

/-! ## Exchanges -/

theorem StaysOutside.window {res : Except Fault State} {w : Window} (h : StaysOutside P res) (ht : res = .ok t)
    (hw : w.after Config.params r = some .closed) :
    w.after Config.params r = some (windowOf t.phase) ∧ OnTransport P t := by
  obtain ⟨hout, hon⟩ := h t ht
  exact ⟨by rw [hw, hout], hon⟩

/-- The gate's next exchange is issued in the window its step stands in. -/
theorem issue_window {w : Window} (h : issue P c (.write job g) s = .ok t)
    (hw : w.after Config.params r = some (windowOf (.run c (.write job g)))) :
    w.after Config.params r = some (windowOf t.phase) ∧ OnTransport P t := by
  refine ⟨?_, onTransport_issue h⟩
  obtain ⟨x, -, rfl⟩ := issue_ok h
  exact hw

/-- After an exchange that returns, the block stands in the window that the exchange's record leads to (R111, R112). -/
theorem afterExchange_window {o : TransportOutcome} (h : r.tx.head? = some (k.opcode Config.params))
    (ho : r.outcome = some o) (ha : afterExchange Config.params c k o.status rx s = .ok t) :
    (windowOf (.run c k)).after Config.params r = some (windowOf t.phase) ∧ OnTransport Config.params t := by
  cases k with
  | start => cases ha
  | readCount | readCursor | readRecord =>
    exact (staysOutside_afterExchange_read (by decide)).window ha (Window.after_read h)
  | write job g =>
    cases g with
    | readBack =>
      exact (staysOutside_afterExchange_read (k := .write job .readBack) Nat.one_ne_zero).window ha
        (Window.after_read h)
    | wrdi r => exact (staysOutside_afterExchange_wrdi r).window ha (Window.after_wrdi h)
    | write =>
      rw [afterExchange_goTo rfl] at ha
      exact issue_window ha (Window.after_write h ho)
    | wren =>
      by_cases hok : o.status = .ok
      · rw [hok, afterExchange_goTo gateNext_wren_ok] at ha
        exact issue_window ha (Window.after_wren_ok h (by rw [ho, status_eq_ok hok]))
      · rw [afterExchange_goTo (gateNext_wren_failed hok)] at ha
        exact issue_window ha (Window.after_wren_failed h ho fun hok' => hok (by rw [hok']; rfl))

/-- The exchanges made between the two states pass the gate, from the window PHASE stood in to the one it stands in. -/
def Gated (s t : State) : Prop :=
  ∃ l, t.exchanges = s.exchanges ++ l ∧ (windowOf s.phase).afterAll Config.params l = some (windowOf t.phase)

theorem gated_of_window (he : t.exchanges = s.exchanges) (hw : windowOf t.phase = windowOf s.phase) : Gated s t :=
  ⟨[], by rw [he, List.append_nil], by rw [hw, Window.afterAll_nil]⟩

theorem gated_of_exchange (he : t.exchanges = s.exchanges ++ [r])
    (hw : (windowOf s.phase).after Config.params r = some (windowOf t.phase)) : Gated s t :=
  ⟨[r], he, by rw [Window.afterAll_cons [] hw, Window.afterAll_nil]⟩

theorem Gated.trans {u : State} (h : Gated s t) (h' : Gated t u) : Gated s u := by
  obtain ⟨l, hl, hw⟩ := h
  obtain ⟨l', hl', hw'⟩ := h'
  exact ⟨l ++ l', by rw [hl', hl, List.append_assoc], by rw [Window.afterAll_append hw, hw']⟩

/-- One exchange passes the gate, whether it returns or loses power. -/
theorem completeExchange_gated {a : Answer} (hon : OnTransport Config.params s) (hp : s.phase = .run c k)
    (h : completeExchange Config.params c k a s = .ok t) : Gated s t ∧ OnTransport Config.params t := by
  obtain ⟨x, i, hx, -, ⟨b, w, u, -, hu, rfl⟩ | ⟨o, f, rx, u, -, hm, ha⟩⟩ := completeExchange_ok h
  · have he : u.exchanges = s.exchanges := by
      obtain rfl | ⟨a, d, -, -, rfl⟩ := interruptedFrame_ok hu <;> rfl
    refine ⟨gated_of_exchange (r := ⟨x.tx, x.n, none, []⟩) ?_ ?_, onTransport_idle rfl⟩
    · rw [State.powerCycle_exchanges, State.note_exchanges, he]
    · rw [hp]
      exact Window.after_powerLoss (hon c k x hp hx) rfl
  · have hu : MediumOnly s u := (mediumFrame_ok hm).1
    rw [MediumOnly] at hu
    obtain ⟨hw, hon'⟩ :=
      afterExchange_window (r := completed x o (if o = .ok then rx else [])) (hon c k x hp hx) rfl ha
    refine ⟨gated_of_exchange ?_ (hp ▸ hw), hon'⟩
    rw [(afterExchange_keeps ha).exchanges, State.release_exchanges, State.note_exchanges, hu]
    rfl

theorem runAnswers_gated (hon : OnTransport Config.params s)
    (h : runAnswers Config.params s.answers s = .ok t) : Gated s t := by
  refine (runAnswers_keeps (Q := fun u => Gated s u ∧ OnTransport Config.params u) ?_ rfl
    ⟨gated_of_window rfl rfl, hon⟩ h).1
  intro c k a rest u v ⟨hg, hu⟩ hp _ hc
  obtain ⟨hg', hv⟩ := completeExchange_gated (s := { u with answers := rest }) hu hp hc
  exact ⟨hg.trans hg', hv⟩

/-! ## Commands and steps -/

theorem defer_gated (hc : IsCommand c = true) : Gated s (s.defer P c) := by
  cases c with
  | init | append | lastRecord | recordAt | traverseOldest | traverseNewest => exact gated_of_window rfl rfl
  | mediumWren | mediumWrdi | mediumRead | mediumWrite | mediumRdsr | mediumWrsr | mediumFastRead | mediumSleep
  | mediumRdid => cases hc

/-- A host command passes the gate from every state: it waits, or it begins outside every window. -/
theorem exec_command_gated (hc : IsCommand c = true) (h : exec c s = .next t) : Gated s t := by
  rw [exec_command hc] at h
  obtain ⟨c', k, -, rfl⟩ | ⟨hp, u, hu, hrun⟩ := launch_next h
  · exact defer_gated hc
  · obtain ⟨hout, hon⟩ := staysOutside_beginCommand u hu
    have hk := beginCommand_keeps hu
    rw [show s.answers = u.answers from hk.answers.symm] at hrun
    exact (gated_of_window (s := s) hk.exchanges (by rw [hout, hp]; rfl)).trans (runAnswers_gated hon hrun)

/-- What arrives at an idle block, other than another agent's frame, passes the gate. -/
theorem onArrival_gated {a : Arrival} (hp : s.phase = .idle) (ha : ∀ x, a ≠ .frame x) (h : onArrival a s = .next t) :
    Gated s t := by
  cases a with
  | frame x => exact absurd rfl (ha x)
  | command w =>
    cases hd : decodeCommand w with
    | ok i =>
      rw [onArrival_command hd] at h
      exact exec_command_gated (decodeCommand_isCommand hd) h
    | error r =>
      rw [onArrival_illegalCommand hd] at h
      cases h
      exact gated_of_window rfl (by rw [hp]; rfl)
  | externalByte a b =>
    by_cases hb : a < 32768
    · rw [onArrival_byteInside hb] at h
      cases h
      exact gated_of_window rfl rfl
    · rw [onArrival_byteBeyond hb] at h
      cases h
  | pins protect hold =>
    cases h
    exact gated_of_window rfl rfl
  | powerCycle wel =>
    cases h
    exact gated_of_window rfl (by rw [hp]; rfl)

theorem head_ne_frame {a : Arrival} {rest : List Arrival} (hp : s.phase = .idle) (hr : s.requests = [])
    (hi : s.inbox = a :: rest) (h : s.frameInHand = false) (x : Exchange) : a ≠ .frame x := by
  rintro rfl
  simp [State.frameInHand, hp, hr, hi] at h

theorem step_gated (hinv : Inv Config.params s) (hf : s.frameInHand = false) (h : step s = .next t) : Gated s t := by
  obtain hp | ⟨c, k, hp⟩ := phase_cases s
  · cases hr : s.requests with
    | cons w rest =>
      rw [step_of_request hp hr] at h
      exact onArrival_gated (s := { s with requests := rest }) hp (fun _ => Arrival.noConfusion) h
    | nil =>
      cases hi : s.inbox with
      | cons a rest =>
        rw [step_of_arrival hp hr hi] at h
        exact onArrival_gated (s := { s with inbox := rest }) hp (head_ne_frame hp hr hi hf) h
      | nil =>
        rw [step_of_nothing hp hr hi] at h
        cases h
        exact gated_of_window rfl rfl
  · have hk : k ≠ .start := fun hk => not_commandReady_start (hk ▸ ((blockOk_running hp).mp hinv.2).1)
    rw [step_pastStart hp hk, outcomeOf_next] at h
    exact runAnswers_gated (onTransport_of_inv hinv) h

/-- Settles O54: the window moves with PHASE at every exchange, and nothing between exchanges opens one. -/
theorem everyWriteIsGated : Obligations.EveryWriteIsGated :=
  ⟨fun _ _ hinv hf h => step_gated hinv hf h, fun _ _ _ hc h => exec_command_gated hc h⟩

end Sys2Proof.Machine
end

section
/-! Failures inside a window (R111-R113): each exchange of the gate leads to the next as the gate's rules say, and the
WRDI that closes a failed window ends the command with the first failure's status. -/

namespace Sys2Proof.Machine

variable {P : Params} {c : Instr} {k : Position} {job : WriteJob} {g g' : GateStep} {s : State} {x x' : Exchange}
  {i : Instr} {o : TransportOutcome} {rest : List Answer} {m : Mem} {w : Bool} {st : Status}

/-! ## What the gate's frames do -/

theorem mediumFrame_wren (f : Fate) (s : State) :
    ∃ w, mediumFrame P .mediumWren f s = .ok ([], { s with wel := w }) := by
  cases f <;> exact ⟨_, rfl⟩

theorem mediumFrame_wrdi (f : Fate) (s : State) :
    ∃ w, mediumFrame P .mediumWrdi f s = .ok ([], { s with wel := w }) := by
  cases f <;> exact ⟨_, rfl⟩

/-- A WRITE inside the medium leaves every byte but its own (R65). -/
theorem mediumFrame_write {a : Word} (ha : a.toNat < 32768) (d : Byte) (f : Fate) (hm : MediumOk Config.params s) :
    ∃ m w, mediumFrame Config.params (.mediumWrite a d) f s = .ok ([], { s with mem := m, wel := w }) ∧
      ∀ y, y ≠ a.toNat → Mem.read Config.params.eraseValue m y = s.byte y := by
  obtain ⟨u, hu⟩ := mediumWriteAt_inside ha d f s
  have honly : MediumOnly s u := (mediumWriteAt_ok hu).2.1
  refine ⟨u.mem, u.wel, ?_, fun y hy => mediumWriteAt_byte hu hm (.inl hy)⟩
  rw [← honly]
  simp only [mediumFrame, hu]

/-- The exchange in progress is the one the position of a sound state waits for (R31). -/
theorem transport_of_exchangeAt (h : Inv P s) (hp : s.phase = .run c k) (hx : exchangeAt P c k s = .ok x) :
    s.transport = some x := by
  obtain ⟨-, -, htr⟩ := (blockOk_running hp).mp h.2
  exact htr.symm.trans (congrArg Except.toOption hx)

/-! ## One exchange of the gate -/

/-- `s` after exchanges that brought no bytes: `rest` are the answers left, `m` and `w` the medium's content and latch,
and `es` joins the record. -/
def State.exchanged (s : State) (rest : List Answer) (m : Mem) (w : Bool) (es : List ExchangeRecord) : State :=
  { s with transport := none, answers := rest, mem := m, wel := w, exchanges := s.exchanges ++ es }

/-- `s` at step `g` of the gate, with the exchange `x` in progress. -/
def State.atGate (s : State) (c : Instr) (job : WriteJob) (g : GateStep) (x : Exchange) : State :=
  { s with phase := .run c (.write job g), transport := some x }

@[simp] theorem State.exchanged_exchanged (rest' : List Answer) (m' : Mem) (w' : Bool) (es es' : List ExchangeRecord) :
    (s.exchanged rest m w es).exchanged rest' m' w' es' = s.exchanged rest' m' w' (es ++ es') := by
  simp only [State.exchanged, List.append_assoc]

/-- Where a write goes and what it writes stands in the registers. -/
@[simp] theorem exchangeAt_exchanged (es : List ExchangeRecord) :
    exchangeAt P c k (s.exchanged rest m w es) = exchangeAt P c k s := exchangeAt_channels s.phase none s.response ..

/-- An exchange of the gate that returns is recorded, and the block goes on as its status says. -/
theorem runAnswers_atGate {f : Fate} {t : State} (hi : decodeFrame P x = .ok i)
    (hm : mediumFrame P i f { s.atGate c job g x with answers := rest } =
      .ok ([], { s.atGate c job g x with answers := rest, mem := m, wel := w }))
    (ha : afterExchange P c (.write job g) o.status []
      ((s.atGate c job g x).exchanged rest m w [completed x o []]) = .ok t) :
    runAnswers P (.returns o f :: rest) (s.atGate c job g x) = runAnswers P rest t := by
  have hc : completeExchange P c (.write job g) (.returns o f) { s.atGate c job g x with answers := rest } = .ok t := by
    rw [completeExchange_returns rfl hi hm, ite_self]
    exact ha
  rw [runAnswers_cons rfl, hc]

/-- The window goes on to the gate's next exchange (R111). -/
theorem runAnswers_atGate_goTo {f : Fate} (hi : decodeFrame P x = .ok i)
    (hm : mediumFrame P i f { s.atGate c job g x with answers := rest } =
      .ok ([], { s.atGate c job g x with answers := rest, mem := m, wel := w }))
    (hn : gateNext g o.status = .goTo g') (hx' : exchangeAt P c (.write job g') s = .ok x') :
    runAnswers P (.returns o f :: rest) (s.atGate c job g x) =
      runAnswers P rest ((s.exchanged rest m w [completed x o []]).atGate c job g' x') :=
  runAnswers_atGate hi hm ((afterExchange_goTo hn).trans
    (issue_of_exchangeAt ((exchangeAt_channels _ none s.response ..).trans hx')))

/-- The window has closed with a failure, which ends the command (R112, R113). -/
theorem runAnswers_atGate_fails {f : Fate} (hi : decodeFrame P x = .ok i)
    (hm : mediumFrame P i f { s.atGate c job g x with answers := rest } =
      .ok ([], { s.atGate c job g x with answers := rest, mem := m, wel := w }))
    (hn : gateNext g o.status = .fails st) (hg : g ≠ .readBack) :
    runAnswers P (.returns o f :: rest) (s.atGate c job g x) =
      .ok ((s.exchanged rest m w [completed x o []]).raise st) :=
  (runAnswers_atGate hi hm (afterExchange_fails hn hg)).trans (runAnswers_idle rfl)

/-- A WREN that returns: the medium's bytes stand, and the gate goes on as its status says (R111, R112). -/
theorem runAnswers_wren (f : Fate) (hn : gateNext .wren o.status = .goTo g')
    (hx' : exchangeAt Config.params c (.write job g') s = .ok x') :
    ∃ w, runAnswers Config.params (.returns o f :: rest)
        (s.atGate c job .wren (oneByteFrame Config.params.opcodes.wren)) =
      runAnswers Config.params rest
        ((s.exchanged rest s.mem w [completed (oneByteFrame Config.params.opcodes.wren) o []]).atGate c job g' x') := by
  obtain ⟨w, hm⟩ := mediumFrame_wren (P := Config.params) f
    { s.atGate c job .wren (oneByteFrame Config.params.opcodes.wren) with answers := rest }
  exact ⟨w, runAnswers_atGate_goTo decodeFrame_wren hm hn hx'⟩

/-- A WRITE that returns: no byte but its own changes, and the WRDI follows with the WRITE's status (R111, R113). -/
theorem runAnswers_write {a : Word} (ha : a.toNat < 32768) (d : Byte) (f : Fate) (hm : MediumOk Config.params s)
    (hx' : exchangeAt Config.params c (.write job (.wrdi o.status)) s = .ok x') :
    ∃ m w, runAnswers Config.params (.returns o f :: rest) (s.atGate c job .write (writeFrame Config.params a d)) =
        runAnswers Config.params rest
          ((s.exchanged rest m w [completed (writeFrame Config.params a d) o []]).atGate c job (.wrdi o.status) x') ∧
      ∀ y, y ≠ a.toNat → Mem.read Config.params.eraseValue m y = s.byte y := by
  obtain ⟨m, w, hframe, hbytes⟩ := mediumFrame_write
    (s := { s.atGate c job .write (writeFrame Config.params a d) with answers := rest }) ha d f hm
  exact ⟨m, w, runAnswers_atGate_goTo (decodeFrame_write a d) hframe rfl hx', hbytes⟩

/-- The WRDI that closes a window with a failure in it ends the command; the medium's bytes stand. -/
theorem runAnswers_wrdi_fails {r : Status} (f : Fate) (h : r ≠ .ok ∨ o.status ≠ .ok) :
    ∃ w, runAnswers Config.params (.returns o f :: rest)
        (s.atGate c job (.wrdi r) (oneByteFrame Config.params.opcodes.wrdi)) =
      .ok ((s.exchanged rest s.mem w [completed (oneByteFrame Config.params.opcodes.wrdi) o []]).raise
        (if r = .ok then o.status else r)) := by
  obtain ⟨w, hm⟩ := mediumFrame_wrdi (P := Config.params) f
    { s.atGate c job (.wrdi r) (oneByteFrame Config.params.opcodes.wrdi) with answers := rest }
  exact ⟨w, runAnswers_atGate_fails decodeFrame_wrdi hm (gateNext_wrdi_fails h) GateStep.noConfusion⟩

/-- A step from inside a window meets the answers with the exchange of its position (R31). -/
theorem step_atGate {t : State} (hinv : Inv Config.params s) (hp : s.phase = .run c (.write job g))
    (hx : exchangeAt Config.params c (.write job g) s = .ok x)
    (h : runAnswers Config.params s.answers (s.atGate c job g x) = .ok t) : step s = .next t := by
  have hs : s.atGate c job g x = s := by rw [State.atGate, ← hp, ← transport_of_exchangeAt hinv hp hx]
  rw [hs] at h
  rw [step_pastStart hp Position.noConfusion, outcomeOf_next, h]

/-- The address of the byte a write is at fits into the frame. -/
theorem byteAddress_toNat {a : Nat} (ha : a + 1 < 32768) (hj : ByteIndexOk s) :
    (BitVec.ofNat 16 (a + s.j.toNat) : Word).toNat = a + s.j.toNat := by
  have hj' : s.j.toNat ≤ 1 := by obtain hj | hj := hj <;> rw [hj] <;> decide
  rw [BitVec.toNat_ofNat]
  omega

/-- The first failure by statuses is the first failure by outcomes (R14). -/
theorem ite_status (o o' : TransportOutcome) :
    (if o.status = .ok then o'.status else o.status) = if o = .ok then o'.status else o.status := by
  cases o <;> rfl

/-! ## The statements -/

/-- Settles O49: the failed WREN leads to the WRDI, whose outcome the gate ignores. -/
theorem failedEnableSkipsTheWrite : Obligations.FailedEnableSkipsTheWrite := by
  intro s c job o1 o2 f1 f2 rest hinv hp ha ho
  obtain ⟨hready, -, -⟩ := (blockOk_running hp).mp hinv.2
  obtain ⟨a, b0, b1, hjob, -⟩ := jobTarget_ready hready
  have hfail : o1.status ≠ .ok := mt status_eq_ok ho
  obtain ⟨w1, hwren⟩ := runAnswers_wren (c := c) (rest := .returns o2 f2 :: rest) f1 (gateNext_wren_failed hfail)
    (exchangeAt_wrdi hjob o1.status)
  obtain ⟨w2, hwrdi⟩ := runAnswers_wrdi_fails f2 (.inl hfail)
  have hrun := hwren.trans hwrdi
  rw [State.exchanged_exchanged, if_neg hfail, ← ha] at hrun
  exact ⟨_, step_atGate hinv hp (exchangeAt_wren hjob) hrun, rfl⟩

/-- Settles O50: the good WREN leads to the WRITE, the WRITE to the WRDI with its status; one of the two has failed. -/
theorem firstGateFailureIsReported : Obligations.FirstGateFailureIsReported := by
  intro s c job o2 o3 f1 f2 f3 rest a b0 b1 hinv hp hjob ha ho
  obtain ⟨hready, -, -⟩ := (blockOk_running hp).mp hinv.2
  obtain ⟨a', b0', b1', hjob', hlt⟩ := jobTarget_ready hready
  obtain rfl : a = a' := congrArg Prod.fst (Except.ok.inj (hjob.symm.trans hjob'))
  have hj : ByteIndexOk s := (commandReady_write hready).1
  obtain ⟨w1, hwren⟩ := runAnswers_wren (c := c) (o := .ok) (rest := .returns o2 f2 :: .returns o3 f3 :: rest) f1
    gateNext_wren_ok (exchangeAt_write hjob)
  obtain ⟨m, w2, hwrite, hbytes⟩ := runAnswers_write (c := c) (o := o2) (rest := .returns o3 f3 :: rest)
    (s := s.exchanged (.returns o2 f2 :: .returns o3 f3 :: rest) s.mem w1
      [completed (oneByteFrame Config.params.opcodes.wren) .ok []])
    (byteAddress_inside hlt hj) (byteAt s.j b0 b1) f2 hinv.1 ((exchangeAt_exchanged _).trans (exchangeAt_wrdi hjob _))
  obtain ⟨w3, hwrdi⟩ := runAnswers_wrdi_fails f3 (ho.imp (mt status_eq_ok) (mt status_eq_ok))
  have hrun := hwren.trans (hwrite.trans hwrdi)
  simp only [State.exchanged_exchanged, ite_status, ← ha] at hrun
  refine ⟨_, step_atGate hinv hp (exchangeAt_wren hjob) hrun, rfl, fun y hy => hbytes y ?_⟩
  rwa [byteAddress_toNat hlt hj]

end Sys2Proof.Machine
end

section
/-! The record codec (R121-R126): `enc` splits the record word into its two bytes, and each field that `dec` reads has the
arithmetic value of its bits, so that the decoded fields put together are the word again. -/

namespace Sys2Proof.Machine

/-! ## The decoded fields as numbers (R122) -/

theorem dec_level_toNat (hi lo : Byte) : (dec hi lo).1.toNat = lo.toNat % 8 := BitVec.extractLsb'_toNat 0 3 lo

theorem dec_thread_toNat (hi lo : Byte) : (dec hi lo).2.1.toNat = lo.toNat / 8 % 8 := by
  simp only [dec, BitVec.extractLsb'_toNat, Nat.shiftRight_eq_div_pow, Nat.reducePow]

theorem dec_code_toNat (hi lo : Byte) : (dec hi lo).2.2.toNat = hi.toNat * 4 + lo.toNat / 64 := by
  have happend : (dec hi lo).2.2.toNat = hi.toNat <<< 2 ||| (lo.extractLsb' 6 2).toNat := BitVec.toNat_append _ _
  have hlow : (lo.extractLsb' 6 2).toNat = lo.toNat / 64 := by
    rw [BitVec.extractLsb'_toNat, Nat.shiftRight_eq_div_pow]
    omega
  rw [happend, ← Nat.shiftLeft_add_eq_or_of_lt (lo.extractLsb' 6 2).isLt, hlow, Nat.shiftLeft_eq]

/-! ## The word between the two -/

theorem enc_eq_be16 (level thread : BitVec 3) (code : BitVec 10) :
    enc level thread code = be16 (recordWord level thread code) := rfl

/-- The decoded fields put together are the word that was read (R126). -/
theorem recordWord_dec (hi lo : Byte) :
    recordWord (dec hi lo).1 (dec hi lo).2.1 (dec hi lo).2.2 = unbe16 hi lo := by
  apply BitVec.eq_of_toNat_eq
  rw [recordWord_toNat, dec_level_toNat, dec_thread_toNat, dec_code_toNat, unbe16, word_toNat_append]
  omega

theorem enc_fst_toNat (level thread : BitVec 3) (code : BitVec 10) :
    (enc level thread code).1.toNat = (code.toNat * 64 + thread.toNat * 8 + level.toNat) / 256 := by
  rw [← recordWord_toNat]
  exact hiByte_toNat _

theorem enc_snd_toNat (level thread : BitVec 3) (code : BitVec 10) :
    (enc level thread code).2.toNat = (code.toNat * 64 + thread.toNat * 8 + level.toNat) % 256 := by
  rw [← recordWord_toNat]
  exact loByte_toNat _

/-! ## Round trips (R124) -/

@[simp] theorem enc_dec (hi lo : Byte) : enc (dec hi lo).1 (dec hi lo).2.1 (dec hi lo).2.2 = (hi, lo) := by
  rw [enc_eq_be16, recordWord_dec, be16_unbe16]

@[simp] theorem dec_enc (level thread : BitVec 3) (code : BitVec 10) :
    dec (enc level thread code).1 (enc level thread code).2 = (level, thread, code) := by
  have hl := level.isLt
  have ht := thread.isLt
  have hlevel : (dec (enc level thread code).1 (enc level thread code).2).1 = level := by
    apply BitVec.eq_of_toNat_eq
    rw [dec_level_toNat, enc_snd_toNat]
    omega
  have hthread : (dec (enc level thread code).1 (enc level thread code).2).2.1 = thread := by
    apply BitVec.eq_of_toNat_eq
    rw [dec_thread_toNat, enc_snd_toNat]
    omega
  have hcode : (dec (enc level thread code).1 (enc level thread code).2).2.2 = code := by
    apply BitVec.eq_of_toNat_eq
    rw [dec_code_toNat, enc_fst_toNat, enc_snd_toNat]
    omega
  exact Prod.ext hlevel (Prod.ext hthread hcode)

/-! ## The statements -/

/-- Settles O7: the two bytes are the quotient and the remainder of the record word by 256. -/
theorem encIsTheArithmeticOfR121 : Obligations.EncIsTheArithmeticOfR121 :=
  ⟨fun level thread code => ⟨enc_fst_toNat level thread code, enc_snd_toNat level thread code⟩, by decide⟩

/-- Settles O8: each field by the arithmetic of its bits. -/
theorem decIsTheArithmeticOfR122 : Obligations.DecIsTheArithmeticOfR122 :=
  ⟨fun hi lo => ⟨dec_level_toNat hi lo, dec_thread_toNat hi lo, dec_code_toNat hi lo⟩, by decide⟩

/-- Settles O9: the fields by their numbers, the bytes by the word between `Dec` and `Enc`. -/
theorem codecRoundTrips : Obligations.CodecRoundTrips := ⟨dec_enc, enc_dec⟩

/-- Settles O10: the RECORD field is the word of the decoded fields. -/
theorem recordFieldIsTheSlotWord : Obligations.RecordFieldIsTheSlotWord := recordWord_dec

end Sys2Proof.Machine
end

section
/-! The comparator (R131-R133): a read-back carried out as R65 says delivers the medium's byte, and a byte that differs
from the one written ends the command, the read-back its last exchange. -/

namespace Sys2Proof.Machine

variable {P : Params} {c : Instr} {job : WriteJob} {s : State} {rest : List Answer} {a : Nat} {b b0 b1 : Byte}

theorem exchangeAt_readBack (hjob : jobTarget P job s = .ok (a, b0, b1)) :
    exchangeAt P c (.write job .readBack) s = .ok (readFrame P (BitVec.ofNat 16 (a + s.j.toNat)) 1) := by
  simp only [exchangeAt, writeExchange, hjob]

/-- A one-byte READ with the fate `done` sends the medium's byte, also while "hold" is active. -/
theorem mediumFrame_readOneDone {addr : Word} (h : addr.toNat < 32768) (s : State) :
    mediumFrame Config.params (.mediumRead addr 1) .done s = .ok ([s.byte addr.toNat], s) := by
  have hread : mediumReadAt Config.params addr 1 .done s =
      .ok (Mem.readBytes Config.params.eraseValue s.mem addr.toNat 1) := if_pos h
  simp only [mediumFrame, hread, Mem.readBytes_one, State.byte]

/-- All 8 bits are compared (R132). -/
theorem verified_eq_false_iff : verified b b0 = false ↔ b ≠ b0 := by simp [verified]

/-- A difference ends the command with `WRITE_FAILED`; only `RB` has been written (R132). -/
theorem afterExchange_mismatch (hjob : jobTarget P job s = .ok (a, b0, b1)) (hb : b ≠ byteAt s.j b0 b1) :
    afterExchange P c (.write job .readBack) .ok [b] s = .ok ({ s with rb := b }.raise .writeFailed) := by
  have hv : verified b (byteAt s.j b0 b1) = false := verified_eq_false_iff.mpr hb
  simp [afterExchange, afterReadBack, hjob, hv]

/-- The good exchange of a read-back that meets another byte than the one written. -/
theorem completeExchange_mismatch {addr : Word} (hlt : addr.toNat < 32768)
    (hx : s.transport = some (readFrame Config.params addr 1)) (hjob : jobTarget Config.params job s = .ok (a, b0, b1))
    (hb : s.byte addr.toNat ≠ byteAt s.j b0 b1) :
    completeExchange Config.params c (.write job .readBack) Answer.good s =
      .ok ({ s with
        rb := s.byte addr.toNat,
        exchanges := s.exchanges ++
          [completed (readFrame Config.params addr 1) .ok [s.byte addr.toNat]] }.answered (beat .writeFailed true 0)) :=
  (completeExchange_returns hx (decodeFrame_readOne addr) (mediumFrame_readOneDone hlt s)).trans
    (afterExchange_mismatch hjob hb)

/-- Settles O51: the read-back in progress brings the medium's byte, and the command ends with the mismatch. -/
theorem comparatorMismatchIsWriteFailed : Obligations.ComparatorMismatchIsWriteFailed := by
  intro s c job a b0 b1 rest hinv hp hjob ha rb hrb
  obtain ⟨hready, -, -⟩ := (blockOk_running hp).mp hinv.2
  obtain ⟨a', b0', b1', hjob', hlt⟩ := jobTarget_ready hready
  obtain rfl : a = a' := congrArg Prod.fst (Except.ok.inj (hjob.symm.trans hjob'))
  have hj : ByteIndexOk s := (commandReady_write hready).1
  have hx := transport_of_exchangeAt hinv hp (exchangeAt_readBack hjob)
  have haddr := byteAddress_toNat hlt hj
  have hc := completeExchange_mismatch (s := { s with answers := rest }) (c := c) (byteAddress_inside hlt hj) hx hjob
    (by rw [haddr]; exact hrb)
  rw [step_pastStart hp Position.noConfusion, outcomeOf_next, ha, runAnswers_cons hp, hc, haddr]
  exact runAnswers_idle rfl

end Sys2Proof.Machine
end

section
/-! The wrap logic on positions (R140-R146): a slot is `slotAddr` of its position, `Next` and `Prev` move the position
by one modulo `N_SLOTS`, and the statements about addresses follow from the arithmetic of positions. -/

namespace Sys2Proof.Machine

variable {P : Params} {c k n : Nat}

/-! ## Slots and positions -/

/-- What the wrap logic uses of R7: slots of two bytes, and at least one of them. -/
theorem legal_slots (h : P.Legal) : P.slotBytes = 2 ∧ 1 ≤ P.nSlots := by
  obtain ⟨hbytes, -, hcap, hslots, -⟩ := h
  exact ⟨hbytes, hcap.trans hslots⟩

theorem slotAddr_eq (h : P.Legal) (k : Nat) : slotAddr P k = P.ringStart + 2 * k := by
  rw [slotAddr, (legal_slots h).1]

theorem ringLast_eq (h : P.Legal) : P.ringLast = P.ringStart + 2 * (P.nSlots - 1) := by
  rw [Params.ringLast, (legal_slots h).1]

theorem validSlot_slotAddr (h : P.Legal) (hk : k < P.nSlots) : ValidSlot P (slotAddr P k) := by
  rw [ValidSlot, slotAddr_eq h, ringLast_eq h, (legal_slots h).1]
  omega

theorem slotPos_slotAddr (h : P.Legal) (k : Nat) : slotPos P (slotAddr P k) = k := by
  rw [slotPos, slotAddr_eq h, (legal_slots h).1]
  omega

/-- The valid slots are those at the positions below `N_SLOTS`. -/
theorem validSlot_position (h : P.Legal) (hc : ValidSlot P c) :
    slotPos P c < P.nSlots ∧ slotAddr P (slotPos P c) = c := by
  have hn := (legal_slots h).2
  rw [ValidSlot, ringLast_eq h, (legal_slots h).1] at hc
  rw [slotAddr_eq h, slotPos, (legal_slots h).1]
  omega

/-! ## Next and Prev as cases and as positions -/

theorem nextSlot_cases (h : P.Legal) (hc : ValidSlot P c) :
    nextSlot P c = if c = P.ringLast then P.ringStart else c + 2 := by
  rw [ValidSlot, ringLast_eq h, (legal_slots h).1] at hc
  have hwrap : P.ringLast < c + 2 ↔ c = P.ringLast := by
    rw [ringLast_eq h]
    omega
  simp only [nextSlot, (legal_slots h).1, hwrap]

theorem prevSlot_cases (h : P.Legal) (c : Nat) :
    prevSlot P c = if c = P.ringStart then P.ringLast else c - 2 := by
  rw [prevSlot, (legal_slots h).1]

/-- `Next` adds one to the position, modulo `N_SLOTS` (R141). -/
theorem nextSlot_slotAddr (h : P.Legal) (hk : k < P.nSlots) :
    nextSlot P (slotAddr P k) = slotAddr P ((k + 1) % P.nSlots) := by
  rw [nextSlot_cases h (validSlot_slotAddr h hk), slotAddr_eq h, slotAddr_eq h, ringLast_eq h]
  obtain hlast | hlt : k + 1 = P.nSlots ∨ k + 1 < P.nSlots := by omega
  · rw [if_pos (by omega), hlast, Nat.mod_self]
    omega
  · rw [if_neg (by omega), Nat.mod_eq_of_lt hlt]
    omega

/-- One position back, modulo `n`: without a wrap, or from 0 to the last. -/
theorem position_pred {n : Nat} (hk : k < n) : (k + n - 1) % n = if k = 0 then n - 1 else k - 1 := by
  split
  · next hzero => rw [hzero, Nat.zero_add, Nat.mod_eq_of_lt (by omega)]
  · rw [show k + n - 1 = k - 1 + n by omega, Nat.add_mod_right, Nat.mod_eq_of_lt (by omega)]

/-- `j` positions back from the position before `k` are `j + 1` positions back from `k`. -/
theorem position_pred_back {n j : Nat} (hk : k < n) (hj : j < n) :
    ((k + n - 1) % n + n - j) % n = (k + n - (j + 1)) % n := by
  rw [position_pred hk]
  split
  · next hzero => rw [hzero, show n - 1 + n - j = 0 + n - (j + 1) + n by omega, Nat.add_mod_right]
  · rw [show k - 1 + n - j = k + n - (j + 1) by omega]

/-- `Prev` takes one from the position, modulo `N_SLOTS` (R142). -/
theorem prevSlot_slotAddr (h : P.Legal) (hk : k < P.nSlots) :
    prevSlot P (slotAddr P k) = slotAddr P ((k + P.nSlots - 1) % P.nSlots) := by
  rw [prevSlot_cases h, position_pred hk, slotAddr_eq h, slotAddr_eq h, ringLast_eq h]
  split <;> split <;> omega

theorem prevSlot_nextSlot (h : P.Legal) (hc : ValidSlot P c) : prevSlot P (nextSlot P c) = c := by
  rw [nextSlot_cases h hc, prevSlot_cases h]
  rw [ValidSlot, (legal_slots h).1] at hc
  split <;> split <;> omega

theorem nextSlot_prevSlot (h : P.Legal) (hc : ValidSlot P c) : nextSlot P (prevSlot P c) = c := by
  rw [prevSlot_cases h, nextSlot, (legal_slots h).1]
  rw [ValidSlot, (legal_slots h).1] at hc
  split <;> split <;> omega

/-! ## Repeated steps -/

theorem backSlot_slotAddr (h : P.Legal) (hn : n < P.nSlots) (hk : k ≤ P.nSlots) :
    backSlot P (slotAddr P n) k = slotAddr P ((n + P.nSlots - k) % P.nSlots) := by
  induction k generalizing n with
  | zero => rw [backSlot, Nat.sub_zero, Nat.add_mod_right, Nat.mod_eq_of_lt hn]
  | succ k ih =>
    rw [backSlot, prevSlot_slotAddr h hn, ih (Nat.mod_lt _ (legal_slots h).2) (Nat.le_of_lt hk),
      position_pred_back hn hk]

theorem nextSlot_iterate_slotAddr (h : P.Legal) (hk : k < P.nSlots) (n : Nat) :
    (nextSlot P)^[n] (slotAddr P k) = slotAddr P ((k + n) % P.nSlots) := by
  induction n with
  | zero => rw [Function.iterate_zero_apply, Nat.add_zero, Nat.mod_eq_of_lt hk]
  | succ n ih =>
    rw [Function.iterate_succ_apply', ih, nextSlot_slotAddr h (Nat.mod_lt _ (legal_slots h).2), Nat.mod_add_mod,
      Nat.add_assoc]

/-- Going back from the advanced cursor is going back one step less from the cursor. -/
theorem backSlot_nextSlot (h : P.Legal) (hc : ValidSlot P c) (k : Nat) :
    backSlot P (nextSlot P c) (k + 1) = backSlot P c k := by
  rw [backSlot, prevSlot_nextSlot h hc]

/-! ## The statements -/

/-- Settles O12: the cases of R141 and R142, and the positions they lead to. -/
theorem nextAndPrevWalkTheRing : Obligations.NextAndPrevWalkTheRing := by
  intro P c h hc
  obtain ⟨hpos, haddr⟩ := validSlot_position h hc
  have hnext := nextSlot_slotAddr h hpos
  have hprev := prevSlot_slotAddr h hpos
  have hmod (k : Nat) : k % P.nSlots < P.nSlots := Nat.mod_lt _ (legal_slots h).2
  rw [haddr] at hnext hprev
  refine ⟨?_, ?_, nextSlot_cases h hc, prevSlot_cases h c, hnext, hprev, prevSlot_nextSlot h hc,
    nextSlot_prevSlot h hc⟩
  · exact hnext ▸ validSlot_slotAddr h (hmod _)
  · exact hprev ▸ validSlot_slotAddr h (hmod _)

/-- Settles O13: the slot by its position, by induction on the number of steps. -/
theorem backHasTheClosedFormOfR146 : Obligations.BackHasTheClosedFormOfR146 := by
  intro P c k h hc hk
  obtain ⟨hpos, haddr⟩ := validSlot_position h hc
  rw [← backSlot_slotAddr h hpos hk, haddr]

/-- Settles O16: the slot by its position, by induction on the number of steps. -/
theorem repeatedNextAddsPositionsModuloSlots : Obligations.RepeatedNextAddsPositionsModuloSlots := by
  intro P c n h hc
  obtain ⟨hpos, haddr⟩ := validSlot_position h hc
  rw [← nextSlot_iterate_slotAddr h hpos n, haddr]

/-- Settles O17: the first step back from the advanced cursor undoes the advance. -/
theorem advancingTheCursorKeepsLogicalSlots : Obligations.AdvancingTheCursorKeepsLogicalSlots := by
  intro P c n i h hc _ _
  refine ⟨fun _ hi => ?_, fun _ hi => ?_⟩
  · rw [show n + 1 + 1 - i = n + 1 - i + 1 by omega, backSlot_nextSlot h hc]
  · rw [show n + 1 - i = n + 1 - (i + 1) + 1 by omega, backSlot_nextSlot h hc]

/-- Settles O14: the valid slots of the default ring. -/
theorem validSlotsAreTheEvenAddresses : Obligations.ValidSlotsAreTheEvenAddresses := fun _ => validSlot_default

end Sys2Proof.Machine
end

section
/-! The reading commands before and at their exchange: the checks of R150, R151 and R153, the one read of LAST_RECORD
and RECORD_AT, and what it brings. -/

namespace Sys2Proof.Machine

variable {P : Params} {c c' : Instr} {s t u : State} {a : Nat} {rest : List Answer}

/-! ## A command of an idle block -/

/-- A command of an idle block begins, then runs on the answers there are. -/
theorem exec_of_begin (hc : IsCommand c = true) (hp : s.phase = .idle)
    (h : beginCommand Config.params c (s.accept c) = .ok u) :
    exec c s = outcomeOf (runAnswers Config.params s.answers u) := by
  rw [exec_command hc, launch_idle hp, h]

/-- A command that ends before its first exchange. -/
theorem exec_of_begin_idle (hc : IsCommand c = true) (hp : s.phase = .idle)
    (h : beginCommand Config.params c (s.accept c) = .ok u) (hu : u.phase = .idle) : exec c s = .next u := by
  rw [exec_of_begin hc hp h, outcomeOf_next, runAnswers_idle hu]

/-- What a command of an idle block that answers came from. -/
theorem exec_idle_next (hc : IsCommand c = true) (hp : s.phase = .idle) (h : exec c s = .next t) :
    ∃ u, beginCommand Config.params c (s.accept c) = .ok u ∧ runAnswers Config.params s.answers u = .ok t := by
  rw [exec_command hc] at h
  obtain ⟨c', k, hrun, -⟩ | ⟨-, hu⟩ := launch_next h
  · cases hp.symm.trans hrun
  · exact hu

/-! ## The checks -/

theorem checkMode_uninit (h : s.mode = .uninit) : checkMode s = some .uninitialized := by simp only [checkMode, h]

theorem checkMode_boot (h : s.mode = .boot) : checkMode s = none := by simp only [checkMode, h]

theorem checkNotEmpty_of_ne {n : Word} (h : n ≠ 0) : checkNotEmpty n = none := if_neg h

theorem checkIndex_inside {n i : Word} (h1 : 1 ≤ i.toNat) (hn : i.toNat ≤ n.toNat) : checkIndex n i = none :=
  if_neg (by omega)

theorem checkIndex_outside {n i : Word} (h : i.toNat < 1 ∨ n.toNat < i.toNat) :
    checkIndex n i = some .invalidArgument := if_pos h

/-- Every command but INIT checks MODE first (R153). -/
theorem beginCommand_uninit (hc : IsCommand c = true) (hi : c ≠ .init) (hm : s.mode = .uninit) :
    beginCommand P c s = .ok (s.raise .uninitialized) := by
  have hmode := checkMode_uninit hm
  cases c with
  | init => exact absurd rfl hi
  | append => simp only [beginCommand, startAppend, hmode]
  | lastRecord => simp only [beginCommand, startLastRecord, hmode]
  | recordAt => simp only [beginCommand, startRecordAt, hmode]
  | traverseOldest => simp only [beginCommand, startTraverseOldest, hmode]
  | traverseNewest => simp only [beginCommand, startTraverseNewest, hmode]
  | mediumWren | mediumWrdi | mediumRead | mediumWrite | mediumRdsr | mediumWrsr | mediumFastRead | mediumSleep
  | mediumRdid => cases hc

theorem exec_uninit (hc : IsCommand c = true) (hi : c ≠ .init) (hp : s.phase = .idle) (hm : s.mode = .uninit) :
    exec c s = .next (s.answered 0x18000000#32) :=
  exec_of_begin_idle hc hp (beginCommand_uninit hc hi hm) rfl

theorem startLastRecord_empty (hm : s.mode = .boot) (hn : s.count = 0) :
    startLastRecord P s = .ok (s.raise .zeroRecords) := by
  simp only [startLastRecord, checkMode_boot hm, readCount_boot hm, hn, checkNotEmpty, if_true]

theorem startRecordAt_empty (i : Word) (hm : s.mode = .boot) (hn : s.count = 0) :
    startRecordAt P i s = .ok (s.raise .zeroRecords) := by
  simp only [startRecordAt, checkMode_boot hm, readCount_boot hm, hn, checkNotEmpty, if_true]

theorem startRecordAt_outside {i : Word} (hm : s.mode = .boot) (hn : s.count ≠ 0)
    (hi : i.toNat < 1 ∨ s.count.toNat < i.toNat) : startRecordAt P i s = .ok (s.raise .invalidArgument) := by
  simp only [startRecordAt, checkMode_boot hm, readCount_boot hm, checkNotEmpty_of_ne hn, checkIndex_outside hi]

/-! ## The record read -/

/-- `s` with command `c` at its read of the slot at `a`. -/
def State.readingAt (s : State) (c : Instr) (a : Nat) : State :=
  { s with phase := .run c .readRecord, transport := some (readFrame Config.params (BitVec.ofNat 16 a) 2) }

theorem issue_readRecord (h : recordAddr Config.params c s = .ok a) :
    issue Config.params c .readRecord s = .ok (s.readingAt c a) :=
  issue_of_exchangeAt (by simp only [exchangeAt, h])

/-- Going to a record read puts a READ of two bytes on the transport channel. -/
theorem issue_readRecord_ok (h : issue Config.params c .readRecord s = .ok t) : ∃ a, t = s.readingAt c a := by
  cases hr : recordAddr Config.params c s with
  | ok a => exact ⟨a, Except.ok.inj (h.symm.trans (issue_readRecord hr))⟩
  | error e => simp [issue, exchangeAt, hr] at h

theorem startLastRecord_ready (hr : RingReady Config.params s) (hn : s.count ≠ 0) :
    startLastRecord Config.params s = .ok (s.readingAt .lastRecord (prevSlot Config.params s.cursor.toNat)) := by
  simp only [startLastRecord, checkMode_boot hr.1, readCount_boot hr.1, checkNotEmpty_of_ne hn]
  exact issue_readRecord (by simp only [recordAddr, cursorSlot_ready hr])

theorem startRecordAt_ready {i : Word} (hr : RingReady Config.params s) (h1 : 1 ≤ i.toNat)
    (hi : i.toNat ≤ s.count.toNat) :
    startRecordAt Config.params i s = .ok (s.readingAt (.recordAt i) (s.slotOf i.toNat)) := by
  have hn : s.count ≠ 0 := by
    intro h
    rw [h] at hi
    exact absurd (h1.trans hi) (by decide)
  simp only [startRecordAt, checkMode_boot hr.1, readCount_boot hr.1, checkNotEmpty_of_ne hn, checkIndex_inside h1 hi]
  exact issue_readRecord (logicalAddr_ready hr i)

/-- LAST_RECORD and RECORD_AT: one record read, one beat (R150, R151). -/
def ReadsOnce (c : Instr) : Prop := c = .lastRecord ∨ ∃ i, c = .recordAt i

theorem afterRecord_once (h : ReadsOnce c) (b0 b1 : Byte) (s : State) :
    afterRecord P c b0 b1 s = .ok (gotRecord b0 b1 s) := by
  obtain rfl | ⟨i, rfl⟩ := h <;> rfl

/-- What a READ of a slot delivers depends on the medium alone. -/
theorem mediumReadAt_readingAt (x : Word) (n : Nat) (f : Fate) :
    mediumReadAt P x n f { s.readingAt c a with answers := rest } = mediumReadAt P x n f s := by
  cases f <;> rfl

/-- A READ of a slot delivers two bytes, whatever its fate. -/
theorem mediumReadAt_slot (ha : ValidSlot Config.params a) (f : Fate) (s : State) :
    ∃ b0 b1, mediumReadAt Config.params (BitVec.ofNat 16 a) 2 f s = .ok [b0, b1] := by
  obtain ⟨haddr, hlt⟩ := validSlot_toNat ha
  obtain ⟨rx, hrx⟩ := mediumReadAt_inside (a := BitVec.ofNat 16 a) (n := 2) (by rw [haddr]; exact hlt) f s
  obtain ⟨-, rfl | ⟨-, b0, b1, -, rfl⟩⟩ := mediumReadAt_ok hrx
  · exact ⟨_, _, hrx⟩
  · exact ⟨b0, b1, hrx⟩

/-- With the fate `done` they are the slot's bytes, also while "hold" is active. -/
theorem mediumReadAt_slotDone (ha : ValidSlot Config.params a) (s : State) :
    mediumReadAt Config.params (BitVec.ofNat 16 a) 2 .done s = .ok [s.byte a, s.byte (a + 1)] := by
  obtain ⟨haddr, hlt⟩ := validSlot_toNat ha
  have hinside : a + 2 ≤ Config.params.mediumBytes := hlt
  simp only [mediumReadAt, haddr, if_pos hinside, Mem.readBytes_two, State.byte]

theorem afterRead2_failed {st : Status} {rx : Bytes} {f : Byte → Byte → State → Except Fault State} (h : st ≠ .ok) :
    afterRead2 st rx s f = .ok (s.raise st) := if_pos h

theorem afterRead2_two (b0 b1 : Byte) (f : Byte → Byte → State → Except Fault State) :
    afterRead2 .ok [b0, b1] s f = f b0 b1 s := rfl

/-- The exchange of a record read that returns. -/
theorem completeExchange_readingAt {o : TransportOutcome} {f : Fate} {rx : Bytes}
    (hread : mediumReadAt Config.params (BitVec.ofNat 16 a) 2 f s = .ok rx) :
    completeExchange Config.params c .readRecord (.returns o f) { s.readingAt c a with answers := rest } =
      afterRead2 o.status (if o = .ok then rx else [])
        { s with
          phase := .run c .readRecord, transport := none, answers := rest,
          exchanges := s.exchanges ++
            [completed (readFrame Config.params (BitVec.ofNat 16 a) 2) o (if o = .ok then rx else [])] }
        (afterRecord Config.params c) := by
  rw [← mediumReadAt_readingAt (c := c) (a := a) (rest := rest)] at hread
  have hframe : mediumFrame Config.params (.mediumRead (BitVec.ofNat 16 a) 2) f
      { s.readingAt c a with answers := rest } = .ok (rx, { s.readingAt c a with answers := rest }) := by
    simp only [mediumFrame, hread]
  exact completeExchange_returns rfl (decodeFrame_readTwo _) hframe

/-- A record read that brings two bytes: their record in one final beat (R150, R151). -/
theorem runAnswers_readingAt_ok {f : Fate} {b0 b1 : Byte} (hc : ReadsOnce c)
    (hread : mediumReadAt Config.params (BitVec.ofNat 16 a) 2 f s = .ok [b0, b1]) :
    runAnswers Config.params (.returns .ok f :: rest) (s.readingAt c a) = .ok
      { s.answered (beat .ok true (b0 ++ b1)) with
        answers := rest,
        exchanges := s.exchanges ++ [completed (readFrame Config.params (BitVec.ofNat 16 a) 2) .ok [b0, b1]] } := by
  have hword : decodedRecord b0 b1 = b0 ++ b1 := recordWord_dec b0 b1
  rw [runAnswers_cons rfl, completeExchange_readingAt hread, if_pos rfl, TransportOutcome.status, afterRead2_two,
    afterRecord_once hc, gotRecord, hword]
  exact runAnswers_idle rfl

/-- A failed record read ends its command with the failure's status. -/
theorem runAnswers_readingAt_failed {o : TransportOutcome} {f : Fate} (ha : ValidSlot Config.params a) (ho : o ≠ .ok) :
    runAnswers Config.params (.returns o f :: rest) (s.readingAt c a) = .ok
      { s.answered (beat o.status true 0) with
        answers := rest,
        exchanges := s.exchanges ++ [completed (readFrame Config.params (BitVec.ofNat 16 a) 2) o []] } := by
  obtain ⟨b0, b1, hread⟩ := mediumReadAt_slot ha f s
  rw [runAnswers_cons rfl, completeExchange_readingAt hread, afterRead2_failed (mt status_eq_ok ho), if_neg ho]
  exact runAnswers_idle rfl

/-- A loss of power in a record read resets the block. -/
theorem runAnswers_readingAt_powerLoss (b : Byte) (wel : Bool) :
    runAnswers Config.params (.powerLoss b wel :: rest) (s.readingAt c a) = .ok
      (({ s with answers := rest }.note (readFrame Config.params (BitVec.ofNat 16 a) 2) none []).powerCycle wel) := by
  have hlost : completeExchange Config.params c .readRecord (.powerLoss b wel)
      { s.readingAt c a with answers := rest } =
      .ok (({ s with answers := rest }.note (readFrame Config.params (BitVec.ofNat 16 a) 2) none []).powerCycle
        wel) := by
    simp only [completeExchange, State.readingAt, decodeFrame_readTwo, interruptedFrame]
    rfl
  rw [runAnswers_cons rfl, hlost]
  exact runAnswers_idle rfl

/-- Which of the two commands reads the slot makes no difference to what its exchange comes to (R152). -/
theorem runAnswers_readingAt_congr (hc : ReadsOnce c) (hc' : ReadsOnce c') (ha : ValidSlot Config.params a)
    (b : Answer) :
    runAnswers Config.params (b :: rest) (s.readingAt c a) =
      runAnswers Config.params (b :: rest) (s.readingAt c' a) := by
  cases b with
  | powerLoss b wel => rw [runAnswers_readingAt_powerLoss, runAnswers_readingAt_powerLoss]
  | returns o f =>
    by_cases ho : o = .ok
    · obtain ⟨b0, b1, hread⟩ := mediumReadAt_slot ha f s
      rw [ho, runAnswers_readingAt_ok hc hread, runAnswers_readingAt_ok hc' hread]
    · rw [runAnswers_readingAt_failed ha ho, runAnswers_readingAt_failed ha ho]

/-! ## The statements -/

/-- LAST_RECORD of a ring with records reads the slot behind the cursor. -/
theorem exec_lastRecord_ready (hp : s.phase = .idle) (hr : RingReady Config.params s) (hn : s.count ≠ 0) :
    exec .lastRecord s = outcomeOf (runAnswers Config.params s.answers
      (s.readingAt .lastRecord (prevSlot Config.params s.cursor.toNat))) :=
  exec_of_begin rfl hp (startLastRecord_ready (s := s.accept .lastRecord) hr hn)

/-- RECORD_AT of an index in `1 .. COUNT` reads the slot of the index. -/
theorem exec_recordAt_ready {i : Word} (hp : s.phase = .idle) (hr : RingReady Config.params s) (h1 : 1 ≤ i.toNat)
    (hi : i.toNat ≤ s.count.toNat) :
    exec (.recordAt i) s = outcomeOf (runAnswers Config.params s.answers
      (s.readingAt (.recordAt i) (s.slotOf i.toNat))) :=
  exec_of_begin rfl hp (startRecordAt_ready (s := s.accept (.recordAt i)) hr h1 hi)

theorem slotOf_valid (hr : RingReady Config.params s) (i : Nat) : ValidSlot Config.params (s.slotOf i) :=
  backSlot_valid _ hr.2.2

/-- The slot behind the cursor as R150 spells it out. -/
theorem prevSlot_cursor (s : State) :
    prevSlot Config.params s.cursor.toNat = if s.cursor = 200 then 32764 else s.cursor.toNat - 2 := by
  have h : s.cursor.toNat = 200 ↔ s.cursor = 200 := (BitVec.toNat_inj (y := (200 : Word)))
  simp only [prevSlot_default, h]

/-- Settles O43: the checks of R150 in their order, then the one read behind the cursor. -/
theorem lastRecordReadsBehindTheCursor : Obligations.LastRecordReadsBehindTheCursor := by
  intro s rest hp a
  have ha : a = prevSlot Config.params s.cursor.toNat := (prevSlot_cursor s).symm
  refine ⟨exec_uninit rfl Instr.noConfusion hp, fun hm hn => ?_, fun hr hn has => ?_, fun o f hr hn ho has => ?_⟩
  · exact exec_of_begin_idle rfl hp (startLastRecord_empty (s := s.accept .lastRecord) hm hn) rfl
  · rw [exec_lastRecord_ready hp hr hn, has, ha, Answer.good,
      runAnswers_readingAt_ok (.inl rfl) (mediumReadAt_slotDone (prevSlot_valid hr.2.2) s)]
    rfl
  · rw [exec_lastRecord_ready hp hr hn, has, ha, runAnswers_readingAt_failed (prevSlot_valid hr.2.2) ho, outcomeOf]

/-- Settles O44: the checks of R151 in their order, then the one read of the indexed slot. -/
theorem recordAtReadsTheIndexedSlot : Obligations.RecordAtReadsTheIndexedSlot := by
  intro s i rest hp a
  refine ⟨exec_uninit rfl Instr.noConfusion hp, fun hm hn => ?_, fun hm hn hi => ?_, fun hr h1 hi has => ?_,
    fun o f hr h1 hi ho has => ?_⟩
  · exact exec_of_begin_idle rfl hp (startRecordAt_empty (s := s.accept (.recordAt i)) i hm hn) rfl
  · exact exec_of_begin_idle rfl hp (startRecordAt_outside (s := s.accept (.recordAt i)) hm hn hi) rfl
  · rw [exec_recordAt_ready hp hr h1 hi, has, Answer.good,
      runAnswers_readingAt_ok (.inr ⟨i, rfl⟩) (mediumReadAt_slotDone (slotOf_valid hr _) s)]
    rfl
  · rw [exec_recordAt_ready hp hr h1 hi, has, runAnswers_readingAt_failed (slotOf_valid hr _) ho, outcomeOf]

/-- The slot of index COUNT is one step of `Prev` behind the cursor (R152). -/
theorem slotOf_count (s : State) : s.slotOf s.count.toNat = prevSlot Config.params s.cursor.toNat := by
  rw [State.slotOf, Nat.add_sub_cancel_left]
  rfl

/-- Settles O45: both commands read the same slot, and its exchange comes to the same for both. -/
theorem lastRecordIsRecordAtCount : Obligations.LastRecordIsRecordAtCount := by
  intro s hp hr hn has
  rw [exec_lastRecord_ready hp hr hn, exec_recordAt_ready hp hr (one_le_toNat hn) le_rfl, slotOf_count]
  obtain ⟨b, rest, hb⟩ := List.exists_cons_of_ne_nil has
  rw [hb, runAnswers_readingAt_congr (.inl rfl) (.inr ⟨s.count, rfl⟩) (prevSlot_valid hr.2.2)]

end Sys2Proof.Machine
end

section
/-! What the four reading commands leave unchanged (R206): they only read, so every exchange of theirs leaves the
registers but `I`, the medium and the inputs, and adds to the channels' past. -/

namespace Sys2Proof.Machine

variable {c : Instr} {s t u : State}

/-! ## What a reading command can do between exchanges -/

theorem not_readsOnce_traversal (h : c = .traverseOldest ∨ c = .traverseNewest) : ¬ ReadsOnce c := by
  rintro (rfl | ⟨i, rfl⟩) <;> obtain h | h := h <;> cases h

theorem isCommand_of_isRead (h : IsRead c = true) : IsCommand c = true := by
  cases c with
  | lastRecord | recordAt | traverseOldest | traverseNewest => rfl
  | init | append => cases h
  | mediumWren | mediumWrdi | mediumRead | mediumWrite | mediumRdsr | mediumWrsr | mediumFastRead | mediumSleep
  | mediumRdid => cases h

/-- A reading command begins by ending, or by going to a record read; only a traversal sets `I`. -/
theorem beginCommand_read_ok (hc : IsRead c = true) (h : beginCommand Config.params c s = .ok t) :
    (∃ st r, t = s.finish st r) ∨ (∃ i a, (ReadsOnce c → i = s.i) ∧ t = { s with i := i }.readingAt c a) := by
  cases c with
  | lastRecord =>
    simp only [beginCommand, startLastRecord] at h
    split at h
    · exact .inl ⟨_, _, (Except.ok.inj h).symm⟩
    · split at h
      · cases h
      · split at h
        · exact .inl ⟨_, _, (Except.ok.inj h).symm⟩
        · obtain ⟨a, rfl⟩ := issue_readRecord_ok h
          exact .inr ⟨s.i, a, fun _ => rfl, rfl⟩
  | recordAt =>
    simp only [beginCommand, startRecordAt] at h
    split at h
    · exact .inl ⟨_, _, (Except.ok.inj h).symm⟩
    · split at h
      · cases h
      · split at h
        · exact .inl ⟨_, _, (Except.ok.inj h).symm⟩
        · split at h
          · exact .inl ⟨_, _, (Except.ok.inj h).symm⟩
          · obtain ⟨a, rfl⟩ := issue_readRecord_ok h
            exact .inr ⟨s.i, a, fun _ => rfl, rfl⟩
  | traverseOldest =>
    simp only [beginCommand, startTraverseOldest] at h
    split at h
    · exact .inl ⟨_, _, (Except.ok.inj h).symm⟩
    · split at h
      · cases h
      · split at h
        · exact .inl ⟨_, _, (Except.ok.inj h).symm⟩
        · obtain ⟨a, rfl⟩ := issue_readRecord_ok h
          exact .inr ⟨1, a, fun hr => absurd hr (not_readsOnce_traversal (.inl rfl)), rfl⟩
  | traverseNewest =>
    simp only [beginCommand, startTraverseNewest] at h
    split at h
    · exact .inl ⟨_, _, (Except.ok.inj h).symm⟩
    · split at h
      · cases h
      · next n _ =>
        split at h
        · exact .inl ⟨_, _, (Except.ok.inj h).symm⟩
        · obtain ⟨a, rfl⟩ := issue_readRecord_ok h
          exact .inr ⟨n, a, fun hr => absurd hr (not_readsOnce_traversal (.inr rfl)), rfl⟩
  | init | append => cases hc
  | mediumWren | mediumWrdi | mediumRead | mediumWrite | mediumRdsr | mediumWrsr | mediumFastRead | mediumSleep
  | mediumRdid => cases hc

/-- A record that arrived is the final beat, or a beat of a traversal, which then ends or goes on to another record. -/
theorem afterRecord_ok {b0 b1 : Byte} (h : afterRecord Config.params c b0 b1 s = .ok t) :
    (∃ r, t = s.finish .ok r) ∨
    (∃ b, t = (s.emit b).finish .ok 0) ∨
    (∃ b i a, ¬ ReadsOnce c ∧ t = { s.emit b with i := i }.readingAt c a) := by
  cases c with
  | lastRecord | recordAt => exact .inl ⟨_, (Except.ok.inj h).symm⟩
  | traverseOldest =>
    simp only [afterRecord, gotOldest] at h
    split at h
    · cases h
    · split at h
      · obtain ⟨a, rfl⟩ := issue_readRecord_ok h
        exact .inr (.inr ⟨_, _, a, not_readsOnce_traversal (.inl rfl), rfl⟩)
      · exact .inr (.inl ⟨_, (Except.ok.inj h).symm⟩)
  | traverseNewest =>
    simp only [afterRecord, gotNewest] at h
    split at h
    · obtain ⟨a, rfl⟩ := issue_readRecord_ok h
      exact .inr (.inr ⟨_, _, a, not_readsOnce_traversal (.inr rfl), rfl⟩)
    · exact .inr (.inl ⟨_, (Except.ok.inj h).symm⟩)
  | init | append => cases h
  | mediumWren | mediumWrdi | mediumRead | mediumWrite | mediumRdsr | mediumWrsr | mediumFastRead | mediumSleep
  | mediumRdid => cases h

/-! ## What a reading command leaves unchanged -/

/-- `u` differs from `s` in what command `c`, which only reads, may change. -/
structure ReadKeeps (c : Instr) (s u : State) : Prop where
  only : ∃ i p x r as es,
    u = { s with i := i, phase := p, transport := x, response := r, answers := as, exchanges := es }
  index : ReadsOnce c → u.i = s.i
  response : s.response <+: u.response
  exchanges : s.exchanges <+: u.exchanges
  answers : u.answers <:+ s.answers

theorem ReadKeeps.accept (c : Instr) (s : State) : ReadKeeps c s (s.accept c) :=
  ⟨⟨_, _, _, _, _, _, rfl⟩, fun _ => rfl, List.prefix_rfl, List.prefix_rfl, List.suffix_rfl⟩

theorem ReadKeeps.finish (h : ReadKeeps c s u) (st : Status) (r : Word) : ReadKeeps c s (u.finish st r) := by
  obtain ⟨⟨i, p, x, r, as, es, rfl⟩, hi, hr, he, ha⟩ := h
  exact ⟨⟨_, _, _, _, _, _, rfl⟩, hi, hr.trans (List.prefix_append _ _), he, ha⟩

theorem ReadKeeps.emit (h : ReadKeeps c s u) (b : Beat) : ReadKeeps c s (u.emit b) := by
  obtain ⟨⟨i, p, x, r, as, es, rfl⟩, hi, hr, he, ha⟩ := h
  exact ⟨⟨_, _, _, _, _, _, rfl⟩, hi, hr.trans (List.prefix_append _ _), he, ha⟩

theorem ReadKeeps.readingAt {i : Word} (h : ReadKeeps c s u) (hi : ReadsOnce c → i = u.i) (a : Nat) :
    ReadKeeps c s ({ u with i := i }.readingAt c a) := by
  obtain ⟨⟨i, p, x, r, as, es, rfl⟩, hu, hr, he, ha⟩ := h
  exact ⟨⟨_, _, _, _, _, _, rfl⟩, fun hc => (hi hc).trans (hu hc), hr, he, ha⟩

theorem ReadKeeps.note_release (h : ReadKeeps c s u) (x : Exchange) (o : Option TransportOutcome) (rx : Bytes) :
    ReadKeeps c s (u.note x o rx).release := by
  obtain ⟨⟨i, p, x, r, as, es, rfl⟩, hi, hr, he, ha⟩ := h
  exact ⟨⟨_, _, _, _, _, _, rfl⟩, hi, hr, he.trans (List.prefix_append _ _), ha⟩

theorem ReadKeeps.nextAnswer {b : Answer} {rest : List Answer} (h : ReadKeeps c s u) (hb : u.answers = b :: rest) :
    ReadKeeps c s { u with answers := rest } := by
  have ha := h.answers
  rw [hb] at ha
  obtain ⟨⟨i, p, x, r, as, es, rfl⟩, hi, hr, he, -⟩ := h
  exact ⟨⟨_, _, _, _, _, _, rfl⟩, hi, hr, he, (List.suffix_cons b rest).trans ha⟩

/-- A command `c` in progress is at its record read, with that READ on the transport channel. -/
def AtRecord (c : Instr) (u : State) : Prop :=
  ∀ c' k, u.phase = .run c' k →
    c' = c ∧ k = .readRecord ∧ ∃ a, u.transport = some (readFrame Config.params a 2)

theorem atRecord_idle (h : u.phase = .idle) : AtRecord c u := fun _ _ hp => by cases h.symm.trans hp

theorem atRecord_readingAt (u : State) (c : Instr) (a : Nat) : AtRecord c (u.readingAt c a) := by
  intro c' k hp
  cases hp
  exact ⟨rfl, rfl, _, rfl⟩

/-- A READ leaves the medium and the block as they are. -/
theorem mediumFrame_read_ok {P : Params} {a : Word} {n : Nat} {f : Fate} {rx : Bytes}
    (h : mediumFrame P (.mediumRead a n) f s = .ok (rx, t)) : t = s ∧ mediumReadAt P a n f s = .ok rx := by
  simp only [mediumFrame] at h
  split at h
  · cases h
  · next hread =>
    cases h
    exact ⟨rfl, hread⟩

/-- What an exchange of a reading command that returns comes to. -/
theorem completeExchange_readKeeps {k : Position} {c' : Instr} {o : TransportOutcome} {f : Fate} (h : ReadKeeps c s u)
    (hat : AtRecord c u) (hp : u.phase = .run c' k)
    (hx : completeExchange Config.params c' k (.returns o f) u = .ok t) : ReadKeeps c s t ∧ AtRecord c t := by
  obtain ⟨rfl, rfl, addr, htr⟩ := hat c' k hp
  obtain ⟨x, i, hx', hi, ⟨b, w, v, hb, -⟩ | ⟨o', f', rx, v, -, hm, hafter⟩⟩ := completeExchange_ok hx
  · cases hb
  · obtain rfl : readFrame Config.params addr 2 = x := Option.some.inj (htr.symm.trans hx')
    obtain rfl : i = .mediumRead addr 2 := Except.ok.inj (hi.symm.trans (decodeFrame_readTwo addr))
    obtain ⟨rfl, -⟩ := mediumFrame_read_ok hm
    have hnote := h.note_release (readFrame Config.params addr 2) (some o') (if o' = .ok then rx else [])
    obtain ⟨-, rfl⟩ | ⟨-, b0, b1, -, hrec⟩ := afterRead2_ok hafter
    · exact ⟨hnote.finish _ _, atRecord_idle rfl⟩
    · obtain ⟨r, rfl⟩ | ⟨b, rfl⟩ | ⟨b, i, a, hc, rfl⟩ := afterRecord_ok hrec
      · exact ⟨hnote.finish _ _, atRecord_idle rfl⟩
      · exact ⟨(hnote.emit b).finish _ _, atRecord_idle rfl⟩
      · exact ⟨(hnote.emit b).readingAt (fun hr => absurd hr hc) a, atRecord_readingAt _ _ _⟩

/-- A coming exchange does not lose power where none is said to. -/
theorem powered_answer {b : Answer} {rest as : List Answer} (h : b :: rest <:+ as)
    (hpow : as.all Answer.powered = true) : ∃ o f, b = .returns o f := by
  have hb : b.powered = true := List.all_eq_true.mp hpow b (h.subset List.mem_cons_self)
  cases b with
  | returns o f => exact ⟨o, f, rfl⟩
  | powerLoss => cases hb

/-- A reading command of an idle block, ended or waiting. -/
theorem exec_read_keeps (hc : IsRead c = true) (hp : s.phase = .idle) (hpow : s.powered = true)
    (h : exec c s = .next t) : ReadKeeps c s t := by
  obtain ⟨u, hu, hrun⟩ := exec_idle_next (isCommand_of_isRead hc) hp h
  have hbegin : ReadKeeps c s u ∧ AtRecord c u := by
    obtain ⟨st, r, rfl⟩ | ⟨i, a, hi, rfl⟩ := beginCommand_read_ok hc hu
    · exact ⟨(ReadKeeps.accept c s).finish st r, atRecord_idle rfl⟩
    · exact ⟨(ReadKeeps.accept c s).readingAt hi a, atRecord_readingAt _ _ _⟩
  refine (runAnswers_keeps (Q := fun v => ReadKeeps c s v ∧ AtRecord c v) ?_
    (beginCommand_keeps hu).answers hbegin hrun).1
  intro c' k b rest v w ⟨hv, hat⟩ hrunning hb hx
  obtain ⟨o, f, rfl⟩ := powered_answer (hb ▸ hv.answers) hpow
  exact completeExchange_readKeeps (u := { v with answers := rest }) (hv.nextAnswer hb) hat hrunning hx

/-- Settles O48: what the exchanges of a reading command leave unchanged, by the invariant over its run. -/
theorem readCommandsFrame : Obligations.ReadCommandsFrame := by
  intro s t c hp hpow hc h
  obtain ⟨⟨i, p, x, r, as, es, rfl⟩, hi, hr, he, ha⟩ := exec_read_keeps hc hp hpow h
  exact ⟨rfl, hi, hr, he, ha⟩

end Sys2Proof.Machine
end

section
/-! A write in which nothing fails (R131, R135): the four good exchanges of each byte store it and verify it, and the
command that wrote goes on from there. -/

namespace Sys2Proof.Machine

variable {c : Instr} {job : WriteJob} {s t : State} {rest : List Answer} {a : Nat} {b b0 b1 : Byte}

theorem goodThen_add (m n : Nat) (rest : List Answer) : goodThen (m + n) rest = goodThen m (goodThen n rest) := by
  simp only [goodThen, List.replicate_add, List.append_assoc]

/-! ## The exchanges of one byte -/

variable {x : Exchange} {addr : Word} {d : Byte}

theorem runAnswers_goodWren (hx : exchangeAt Config.params c (.write job .write) s = .ok x) :
    runAnswers Config.params (Answer.good :: rest)
        (s.atGate c job .wren (oneByteFrame Config.params.opcodes.wren)) =
      runAnswers Config.params rest
        ((s.exchanged rest s.mem true [completed (oneByteFrame Config.params.opcodes.wren) .ok []]).atGate c job .write
          x) :=
  runAnswers_atGate_goTo decodeFrame_wren rfl gateNext_wren_ok hx

theorem runAnswers_goodWrite (ha : addr.toNat < 32768) (hw : s.writable = true)
    (hx : exchangeAt Config.params c (.write job (.wrdi .ok)) s = .ok x) :
    runAnswers Config.params (Answer.good :: rest) (s.atGate c job .write (writeFrame Config.params addr d)) =
      runAnswers Config.params rest
        ((s.exchanged rest (Mem.write Config.params.eraseValue s.mem addr.toNat d) false
          [completed (writeFrame Config.params addr d) .ok []]).atGate c job (.wrdi .ok) x) := by
  refine runAnswers_atGate_goTo (decodeFrame_write addr d) ?_ rfl hx
  have hw' : ({ s.atGate c job .write (writeFrame Config.params addr d) with answers := rest } : State).writable =
      true := hw
  rw [mediumFrame_writeDone ha, if_pos hw']
  rfl

theorem runAnswers_goodWrdi (hx : exchangeAt Config.params c (.write job .readBack) s = .ok x) :
    runAnswers Config.params (Answer.good :: rest)
        (s.atGate c job (.wrdi .ok) (oneByteFrame Config.params.opcodes.wrdi)) =
      runAnswers Config.params rest
        ((s.exchanged rest s.mem false [completed (oneByteFrame Config.params.opcodes.wrdi) .ok []]).atGate c job
          .readBack x) :=
  runAnswers_atGate_goTo decodeFrame_wrdi rfl gateNext_wrdi_ok hx

/-- A good window stores its byte into an unprotected medium, and the read-back comes next (R111). -/
theorem runAnswers_goodWindow (hjob : jobTarget Config.params job s = .ok (a, b0, b1))
    (haddr : addr = BitVec.ofNat 16 (a + s.j.toNat)) (ha : addr.toNat < 32768) (hprot : s.protect = false) :
    runAnswers Config.params (goodThen 3 rest) (s.atGate c job .wren (oneByteFrame Config.params.opcodes.wren)) =
      runAnswers Config.params rest
        ((s.exchanged rest (Mem.write Config.params.eraseValue s.mem addr.toNat (byteAt s.j b0 b1)) false
          [completed (oneByteFrame Config.params.opcodes.wren) .ok [],
           completed (writeFrame Config.params addr (byteAt s.j b0 b1)) .ok [],
           completed (oneByteFrame Config.params.opcodes.wrdi) .ok []]).atGate c job .readBack
            (readFrame Config.params addr 1)) := by
  subst haddr
  calc _ = _ := runAnswers_goodWren (exchangeAt_write hjob)
    _ = _ := runAnswers_goodWrite ha (writable_iff.mpr ⟨rfl, hprot⟩)
      ((exchangeAt_exchanged _).trans (exchangeAt_wrdi hjob .ok))
    _ = _ := runAnswers_goodWrdi
      ((exchangeAt_exchanged _).trans ((exchangeAt_exchanged _).trans (exchangeAt_readBack hjob)))
    _ = _ := by rw [State.exchanged_exchanged, State.exchanged_exchanged]; rfl

theorem runAnswers_goodReadBack (ha : addr.toNat < 32768)
    (hafter : afterReadBack Config.params c job (s.byte addr.toNat)
      { s.exchanged rest s.mem s.wel [completed (readFrame Config.params addr 1) .ok [s.byte addr.toNat]] with
        phase := .run c (.write job .readBack) } = .ok t) :
    runAnswers Config.params (Answer.good :: rest) (s.atGate c job .readBack (readFrame Config.params addr 1)) =
      runAnswers Config.params rest t := by
  have hdone : completeExchange Config.params c (.write job .readBack) Answer.good
      { s.atGate c job .readBack (readFrame Config.params addr 1) with answers := rest } = .ok t :=
    (completeExchange_returns rfl (decodeFrame_readOne addr) (mediumFrame_readOneDone ha _)).trans hafter
  rw [runAnswers_cons rfl, hdone]

/-- A read-back that brings the byte written: the next byte, or what follows the write (R131, R132). -/
theorem afterReadBack_verified (hjob : jobTarget Config.params job s = .ok (a, b0, b1)) (hb : b = byteAt s.j b0 b1) :
    afterReadBack Config.params c job b s =
      if s.j = 0 then issue Config.params c (.write job .wren) { s with rb := b, j := 1 }
      else afterJob Config.params c job { s with rb := b } := by
  have hv : verified b (byteAt s.j b0 b1) = true := by simp [verified, hb]
  simp only [afterReadBack, hjob, hv, if_true]

/-- The record of the four good exchanges that store and verify `b` at `addr` (R111, R131). -/
def storedRecord (addr : Word) (b : Byte) : List ExchangeRecord :=
  [completed (oneByteFrame Config.params.opcodes.wren) .ok [],
   completed (writeFrame Config.params addr b) .ok [],
   completed (oneByteFrame Config.params.opcodes.wrdi) .ok [],
   completed (readFrame Config.params addr 1) .ok [b]]

/-- `s` after the good write of `b` at `addr`, at the read-back that has verified it. -/
def State.byteStored (s : State) (c : Instr) (job : WriteJob) (addr : Word) (b : Byte) (rest : List Answer) : State :=
  { s.exchanged rest (Mem.write Config.params.eraseValue s.mem addr.toNat b) false (storedRecord addr b) with
    phase := .run c (.write job .readBack), rb := b }

/-- Four good exchanges store and verify a byte; the sequencer then goes on to `t`. -/
theorem runAnswers_goodByte (hjob : jobTarget Config.params job s = .ok (a, b0, b1))
    (haddr : addr = BitVec.ofNat 16 (a + s.j.toNat)) (ha : addr.toNat < 32768) (hb : b = byteAt s.j b0 b1)
    (hprot : s.protect = false) (hwf : Mem.wf Config.params.eraseValue s.mem = true)
    (hnext : (if s.j = 0 then issue Config.params c (.write job .wren) { s.byteStored c job addr b rest with j := 1 }
      else afterJob Config.params c job (s.byteStored c job addr b rest)) = .ok t) :
    runAnswers Config.params (goodThen 4 rest) (s.atGate c job .wren (oneByteFrame Config.params.opcodes.wren)) =
      runAnswers Config.params rest t := by
  refine (runAnswers_goodWindow (rest := goodThen 1 rest) hjob haddr ha hprot).trans (runAnswers_goodReadBack ha ?_)
  rw [← hb]
  have hread (rest' : List Answer) (w : Bool) (es : List ExchangeRecord) :
      (s.exchanged rest' (Mem.write Config.params.eraseValue s.mem addr.toNat b) w es).byte addr.toNat = b :=
    Mem.read_write_same _ _ hwf
  rw [hread, State.exchanged_exchanged]
  refine (afterReadBack_verified (a := a) (b0 := b0) (b1 := b1) ?_ ?_).trans hnext
  · exact hjob
  · exact hb

/-! ## Both bytes -/

/-- The content `m` with `b0` and `b1` stored at `a` and `a + 1`. -/
def Mem.writePair (m : Mem) (a : Nat) (b0 b1 : Byte) : Mem :=
  Mem.write Config.params.eraseValue (Mem.write Config.params.eraseValue m a b0) (a + 1) b1

theorem Mem.wf_writePair {m : Mem} (a : Nat) (b0 b1 : Byte) (h : Mem.wf Config.params.eraseValue m = true) :
    Mem.wf Config.params.eraseValue (m.writePair a b0 b1) = true := Mem.wf_write _ _ (Mem.wf_write _ _ h)

theorem Mem.read_writePair {m : Mem} (a : Nat) (b0 b1 : Byte) (h : Mem.wf Config.params.eraseValue m = true) (x : Nat) :
    Mem.read Config.params.eraseValue (m.writePair a b0 b1) x =
      if x = a then b0 else if x = a + 1 then b1 else Mem.read Config.params.eraseValue m x := by
  rw [Mem.writePair, Mem.read_write _ _ _ (Mem.wf_write _ _ h), Mem.read_write _ _ _ h]
  by_cases h0 : x = a
  · rw [if_neg (by omega), if_pos h0, if_pos h0]
  · simp only [if_neg h0]

/-- `s` after the good write of `b0` and `b1` at `a`, at the read-back that has verified the second. -/
def State.written (s : State) (c : Instr) (job : WriteJob) (a : Nat) (b0 b1 : Byte) (rest : List Answer) : State :=
  { s.exchanged rest (s.mem.writePair a b0 b1) false (writeVerifyRecord Config.params (BitVec.ofNat 16 a) b0 b1) with
    phase := .run c (.write job .readBack), rb := b1, j := 1 }

theorem writeVerifyRecord_eq (a : Nat) (b0 b1 : Byte) : writeVerifyRecord Config.params (BitVec.ofNat 16 a) b0 b1 =
    storedRecord (BitVec.ofNat 16 a) b0 ++ storedRecord (BitVec.ofNat 16 (a + 1)) b1 := by
  rw [BitVec.ofNat_add]
  rfl

/-- `s` at the WREN of byte `J` of a write. -/
def State.atWren (s : State) (c : Instr) (job : WriteJob) : State :=
  s.atGate c job .wren (oneByteFrame Config.params.opcodes.wren)

theorem startWrite_of_jobTarget (hjob : jobTarget Config.params job s = .ok (a, b0, b1)) :
    startWrite Config.params c job s = .ok ({ s with j := 0 }.atWren c job) :=
  issue_of_exchangeAt (exchangeAt_wren (s := { s with j := 0 }) hjob)

/-- Eight good exchanges store and verify both bytes; the sequencer then goes on to `t`. -/
theorem runAnswers_goodWriteVerify (hjob : jobTarget Config.params job s = .ok (a, b0, b1)) (ha : a + 1 < 32768)
    (hj : s.j = 0) (hprot : s.protect = false) (hwf : Mem.wf Config.params.eraseValue s.mem = true)
    (hnext : afterJob Config.params c job (s.written c job a b0 b1 rest) = .ok t) :
    runAnswers Config.params (goodThen 8 rest) (s.atWren c job) = runAnswers Config.params rest t := by
  have haddr0 : (BitVec.ofNat 16 a : Word).toNat = a := by rw [BitVec.toNat_ofNat]; omega
  have haddr1 : (BitVec.ofNat 16 (a + 1) : Word).toNat = a + 1 := by rw [BitVec.toNat_ofNat]; omega
  let u : State := { s.byteStored c job (BitVec.ofNat 16 a) b0 (goodThen 4 rest) with j := 1 }
  have huj : ¬ u.j = 0 := (by decide : ¬ (1 : Byte) = 0)
  have hujob : jobTarget Config.params job u = .ok (a, b0, b1) := hjob
  have hwritten : u.byteStored c job (BitVec.ofNat 16 (a + 1)) b1 rest = s.written c job a b0 b1 rest := by
    simp only [u, State.written, State.byteStored, State.exchanged, writeVerifyRecord_eq, List.append_assoc, haddr0,
      haddr1, Mem.writePair]
  have hfirst : runAnswers Config.params (goodThen 4 (goodThen 4 rest)) (s.atWren c job) =
      runAnswers Config.params (goodThen 4 rest) (u.atWren c job) := by
    refine runAnswers_goodByte (addr := BitVec.ofNat 16 a) (b := b0) hjob (by rw [hj]; rfl) (by omega)
      (by rw [hj]; rfl) hprot hwf ?_
    rw [if_pos hj]
    exact issue_of_exchangeAt (exchangeAt_wren hujob)
  have hsecond : runAnswers Config.params (goodThen 4 rest) (u.atWren c job) = runAnswers Config.params rest t :=
    runAnswers_goodByte (addr := BitVec.ofNat 16 (a + 1)) (b := b1) hujob rfl (by omega) rfl hprot
      (Mem.wf_write _ _ hwf) (by rw [if_neg huj, hwritten]; exact hnext)
  exact hfirst.trans hsecond

end Sys2Proof.Machine
end

section
/-! APPEND when no exchange fails (R147-R149): the checks, three writes one after the other, and the registers and bytes
they leave. -/

namespace Sys2Proof.Machine

variable {s : State} {level thread : Byte} {code : Word} {rest : List Answer}

/-! ## The checks and the values written -/

/-- The record word of APPEND's fields (R121). -/
def recordOf (level thread : Byte) (code : Word) : Word :=
  BitVec.ofNat 16 (code.toNat * 64 + thread.toNat * 8 + level.toNat)

/-- The cursor after an APPEND (R149). -/
def State.nextCursor (s : State) : Word := BitVec.ofNat 16 (nextSlot Config.params s.cursor.toNat)

theorem checkRecord_inside (hl : level.toNat < 8) (ht : thread.toNat < 8) (hc : code.toNat < 1023) :
    checkRecord Config.params level thread code = none :=
  if_neg (show ¬ (8 ≤ level.toNat ∨ 8 ≤ thread.toNat ∨ 1023 ≤ code.toNat) by omega)

theorem checkRecord_outside (h : 8 ≤ level.toNat ∨ 8 ≤ thread.toNat ∨ 1023 ≤ code.toNat) :
    checkRecord Config.params level thread code = some .invalidArgument := if_pos h

/-- Fields in range are encoded as they are. -/
theorem enc_fields (hl : level.toNat < 8) (ht : thread.toNat < 8) :
    enc (level.setWidth 3) (thread.setWidth 3) (code.setWidth 10) =
      (hiByte (recordOf level thread code), loByte (recordOf level thread code)) := by
  have hword : recordWord (level.setWidth 3) (thread.setWidth 3) (code.setWidth 10) = recordOf level thread code := by
    apply BitVec.eq_of_toNat_eq
    rw [recordWord_toNat, recordOf, BitVec.toNat_ofNat, BitVec.toNat_setWidth, BitVec.toNat_setWidth,
      BitVec.toNat_setWidth]
    omega
  rw [enc_eq_be16, hword]
  rfl

theorem nextCursor_eq (hv : ValidSlot Config.params s.cursor.toNat) :
    s.nextCursor = if s.cursor = 32764 then 200 else s.cursor + 2 := by
  have hlast : s.cursor.toNat = 32764 ↔ s.cursor = 32764 := BitVec.toNat_inj (y := (32764 : Word))
  rw [validSlot_default] at hv
  rw [State.nextCursor, nextSlot_default]
  by_cases h : s.cursor = 32764
  · rw [if_pos h, if_pos (by have := hlast.mpr h; omega)]
    rfl
  · rw [if_neg h, if_neg (by have := mt hlast.mp h; omega)]
    apply BitVec.eq_of_toNat_eq
    rw [BitVec.toNat_ofNat, BitVec.toNat_add]
    rfl

theorem nextCursor_toNat (hv : ValidSlot Config.params s.cursor.toNat) :
    s.nextCursor.toNat = nextSlot Config.params s.cursor.toNat := (validSlot_toNat (nextSlot_valid hv)).1

theorem saturatingCount_toNat (n : Word) : (saturatingCount Config.params n).toNat = min (n.toNat + 1) 16283 := by
  rw [saturatingCount, BitVec.toNat_ofNat]
  exact Nat.mod_eq_of_lt ((Nat.min_le_right _ _).trans_lt (by decide))

/-- Settles O36: the fields are compared with their limits at full width, before the first exchange. -/
theorem appendRejectsFieldsOutOfRange : Obligations.AppendRejectsFieldsOutOfRange := by
  intro s level thread code hp hm hfields
  have hstart : startAppend Config.params level thread code (s.accept (.append level thread code)) =
      .ok (s.answered 0x58000000#32) := by
    simp only [startAppend, checkMode_boot (s := s.accept (.append level thread code)) hm, checkRecord_outside hfields]
    rfl
  exact exec_of_begin_idle rfl hp hstart rfl

/-! ## The three writes -/

theorem startAppend_ready (hm : s.mode = .boot) (hl : level.toNat < 8) (ht : thread.toNat < 8)
    (hc : code.toNat < 1023) :
    startAppend Config.params level thread code s =
      startWrite Config.params (.append level thread code) .payload
        { s with hi := hiByte (recordOf level thread code), lo := loByte (recordOf level thread code) } := by
  simp only [startAppend, checkMode_boot hm, checkRecord_inside hl ht hc, enc_fields hl ht]

theorem jobTarget_payload (hm : s.mode = .boot) :
    jobTarget Config.params .payload s = .ok (s.cursor.toNat, s.hi, s.lo) := by
  simp only [jobTarget, readCursor_boot hm]

theorem jobTarget_newCount (s : State) :
    jobTarget Config.params .newCount s = .ok (100, hiByte s.newCount, loByte s.newCount) := rfl

theorem jobTarget_newCursor (s : State) :
    jobTarget Config.params .newCursor s = .ok (102, hiByte s.newCursor, loByte s.newCursor) := rfl

theorem wrotePayload_ready {c : Instr} (hm : s.mode = .boot) :
    wrotePayload Config.params c s =
      startWrite Config.params c .newCount { s with newCount := saturatingCount Config.params s.count } := by
  simp only [wrotePayload, readCount_boot hm]

theorem wroteCount_ready {c : Instr} (hr : RingReady Config.params s) :
    wroteCount Config.params c s =
      startWrite Config.params c .newCursor { s with count := s.newCount, newCursor := s.nextCursor } := by
  simp only [wroteCount, cursorSlot_ready hr]
  rfl

/-- The medium's content after a good APPEND of the record `w`. -/
def State.appendedMem (s : State) (w : Word) : Mem :=
  let n := saturatingCount Config.params s.count
  ((s.mem.writePair s.cursor.toNat (hiByte w) (loByte w)).writePair 100 (hiByte n) (loByte n)).writePair 102
    (hiByte s.nextCursor) (loByte s.nextCursor)

/-- `s` after a good APPEND of the record `w`. -/
def State.appended (s : State) (w : Word) (rest : List Answer) : State :=
  let n := saturatingCount Config.params s.count
  { s with
    count := n, cursor := s.nextCursor, phase := .idle, hi := hiByte w, lo := loByte w, newCount := n,
    newCursor := s.nextCursor, rb := loByte s.nextCursor, j := 1, response := s.response ++ [0x08000000#32],
    transport := none, answers := rest, mem := s.appendedMem w, wel := false,
    exchanges := s.exchanges ++
      writeVerifyRecord Config.params (BitVec.ofNat 16 s.cursor.toNat) (hiByte w) (loByte w) ++
      writeVerifyRecord Config.params 100 (hiByte n) (loByte n) ++
      writeVerifyRecord Config.params 102 (hiByte s.nextCursor) (loByte s.nextCursor) }

/-- APPEND with 24 good answers (R147). -/
theorem exec_append_good (hp : s.phase = .idle) (hprot : s.protect = false) (hm : MediumOk Config.params s)
    (hr : RingReady Config.params s) (hl : level.toNat < 8) (ht : thread.toNat < 8) (hc : code.toNat < 1023)
    (has : s.answers = goodThen 24 rest) :
    exec (.append level thread code) s = .next (s.appended (recordOf level thread code) rest) := by
  let c : Instr := .append level thread code
  let w := recordOf level thread code
  let n := saturatingCount Config.params s.count
  let v1 : State := { s.accept c with hi := hiByte w, lo := loByte w, j := 0 }
  let w1 := v1.written c .payload s.cursor.toNat (hiByte w) (loByte w) (goodThen 16 rest)
  let v2 : State := { w1 with newCount := n, j := 0 }
  let w2 := v2.written c .newCount 100 (hiByte n) (loByte n) (goodThen 8 rest)
  let v3 : State := { w2 with count := n, newCursor := s.nextCursor, j := 0 }
  let w3 := v3.written c .newCursor 102 (hiByte s.nextCursor) (loByte s.nextCursor) rest
  have hwf2 : Mem.wf Config.params.eraseValue v2.mem = true := Mem.wf_writePair _ _ _ hm.1
  have hwf3 : Mem.wf Config.params.eraseValue v3.mem = true := Mem.wf_writePair _ _ _ hwf2
  have hstart : beginCommand Config.params c (s.accept c) = .ok (v1.atWren c .payload) :=
    (startAppend_ready (s := s.accept c) hr.1 hl ht hc).trans (startWrite_of_jobTarget (jobTarget_payload hr.1))
  have hpayload : afterJob Config.params c .payload w1 = .ok (v2.atWren c .newCount) :=
    (wrotePayload_ready (s := w1) hr.1).trans (startWrite_of_jobTarget (jobTarget_newCount _))
  have hr2 : RingReady Config.params w2 := hr
  have hcount : afterJob Config.params c .newCount w2 = .ok (v3.atWren c .newCursor) :=
    (wroteCount_ready hr2).trans (startWrite_of_jobTarget (jobTarget_newCursor _))
  have hfirst : runAnswers Config.params (goodThen 24 rest) (v1.atWren c .payload) =
      runAnswers Config.params (goodThen 16 rest) (v2.atWren c .newCount) :=
    runAnswers_goodWriteVerify (rest := goodThen 16 rest) (s := v1) (jobTarget_payload hr.1)
      (validSlot_toNat hr.2.2).2 rfl hprot hm.1 hpayload
  have hsecond : runAnswers Config.params (goodThen 16 rest) (v2.atWren c .newCount) =
      runAnswers Config.params (goodThen 8 rest) (v3.atWren c .newCursor) :=
    runAnswers_goodWriteVerify (rest := goodThen 8 rest) (jobTarget_newCount v2) (by decide) rfl hprot hwf2 hcount
  have hcursor : afterJob Config.params c .newCursor w3 = .ok (wroteCursor w3) := rfl
  have hthird : runAnswers Config.params (goodThen 8 rest) (v3.atWren c .newCursor) =
      runAnswers Config.params rest (wroteCursor w3) :=
    runAnswers_goodWriteVerify (jobTarget_newCursor v3) (by decide) rfl hprot hwf3 hcursor
  have hdone : wroteCursor w3 = s.appended w rest := by
    simp only [wroteCursor, State.finish, w3, v3, w2, v2, w1, v1, State.written, State.exchanged]
    rfl
  rw [exec_of_begin rfl hp hstart, has, outcomeOf_next, hfirst, hsecond, hthird, hdone]
  exact runAnswers_idle rfl

/-! ## The state after a good APPEND -/

variable {w : Word}

/-- The bytes after a good APPEND: the record in its slot, the count and the cursor in the metadata. -/
theorem byte_appended (hm : MediumOk Config.params s) (hr : RingReady Config.params s) (a : Nat) :
    (s.appended w rest).byte a =
      if a = s.cursor.toNat then hiByte w
      else if a = s.cursor.toNat + 1 then loByte w
      else if a = 100 then hiByte (saturatingCount Config.params s.count)
      else if a = 101 then loByte (saturatingCount Config.params s.count)
      else if a = 102 then hiByte s.nextCursor
      else if a = 103 then loByte s.nextCursor
      else s.byte a := by
  have hslot : 200 ≤ s.cursor.toNat := (validSlot_default.mp hr.2.2).1
  have hwf1 := Mem.wf_writePair s.cursor.toNat (hiByte w) (loByte w) hm.1
  have hwf2 := Mem.wf_writePair 100 (hiByte (saturatingCount Config.params s.count))
    (loByte (saturatingCount Config.params s.count)) hwf1
  rw [State.byte, State.appended, State.appendedMem, Mem.read_writePair _ _ _ hwf2, Mem.read_writePair _ _ _ hwf1,
    Mem.read_writePair _ _ _ hm.1, State.byte]
  grind

/-- Settles O35: the run of 24 good exchanges, with the values of R148 and R149 in the spec's words. -/
theorem appendStoresTheRecord : Obligations.AppendStoresTheRecord := by
  intro s level thread code rest hp hprot hm hr hl ht hc has c w n u
  have hu : s.nextCursor = u := nextCursor_eq hr.2.2
  have hcursor : (BitVec.ofNat 16 s.cursor.toNat : Word) = s.cursor := by simp
  refine ⟨s.appended w rest, exec_append_good hp hprot hm hr hl ht hc has, hr.1, rfl, hu, rfl, rfl, rfl, rfl, ?_,
    fun a => ?_, rfl, rfl, rfl, rfl, rfl, rfl, rfl, rfl⟩
  · rw [← hu]
    simp only [State.appended, hcursor]
    rfl
  · rw [byte_appended hm hr, ← hu]
    rfl

end Sys2Proof.Machine
end

section
/-! The records a ring holds after an APPEND (R152, R154, R155): the appended one behind the cursor, every other one in
its slot, so that a read command returns the same beat as before. -/

namespace Sys2Proof.Machine

variable {s : State} {level thread : Byte} {code w : Word} {rest : List Answer}

/-- A good APPEND leaves a ring that the commands can use (R24). -/
theorem ringReady_appended (hr : RingReady Config.params s) : RingReady Config.params (s.appended w rest) := by
  refine ⟨hr.1, saturatingCount_le .., ?_⟩
  rw [show (s.appended w rest).cursor = s.nextCursor from rfl, nextCursor_toNat hr.2.2]
  exact nextSlot_valid hr.2.2

theorem count_appended_toNat (s : State) (w : Word) (rest : List Answer) :
    (s.appended w rest).count.toNat = min (s.count.toNat + 1) 16283 := saturatingCount_toNat s.count

theorem count_appended_ne_zero (s : State) (w : Word) (rest : List Answer) : (s.appended w rest).count ≠ 0 := by
  intro h
  have hcount := count_appended_toNat s w rest
  rw [h] at hcount
  have : (0 : Word).toNat = 0 := rfl
  omega

/-- The slot of the cursor holds the appended record. -/
theorem slotWord_appended_cursor (hm : MediumOk Config.params s) (hr : RingReady Config.params s) :
    (s.appended w rest).slotWord s.cursor.toNat = w := by
  rw [State.slotWord, byte_appended hm hr, byte_appended hm hr, if_pos rfl, if_neg (Nat.succ_ne_self _), if_pos rfl,
    hiByte_append_loByte]

/-- Every other slot holds what it held. -/
theorem slotWord_appended_other {a : Nat} (hm : MediumOk Config.params s) (hr : RingReady Config.params s)
    (ha : ValidSlot Config.params a) (hne : a ≠ s.cursor.toNat) :
    (s.appended w rest).slotWord a = s.slotWord a := by
  have hc := validSlot_default.mp hr.2.2
  rw [validSlot_default] at ha
  have hbyte (x : Nat) (hx : x = a ∨ x = a + 1) : (s.appended w rest).byte x = s.byte x := by
    rw [byte_appended hm hr, if_neg (by omega), if_neg (by omega), if_neg (by omega), if_neg (by omega),
      if_neg (by omega), if_neg (by omega)]
  rw [State.slotWord, State.slotWord, hbyte a (.inl rfl), hbyte (a + 1) (.inr rfl)]

/-! ## Logical indices -/

theorem legal_default : Config.params.Legal := by decide

/-- The logical index before an APPEND of the record that has index `i` after it (R154, R155). -/
def State.olderIndex (s : State) (i : Word) : Word := if s.count.toNat < 16283 then i else i + 1

theorem index_le {i : Word} (hi : i.toNat < s.count.toNat ∨ i = s.count ∧ s.count.toNat < 16283) :
    i.toNat ≤ s.count.toNat := by
  obtain hlt | ⟨rfl, -⟩ := hi
  · exact hlt.le
  · exact le_rfl

/-- The indices that have an older record: those of the old ring, the oldest apart when it was full. -/
theorem olderIndex_inside {i : Word} (hr : RingReady Config.params s) (h1 : 1 ≤ i.toNat)
    (hi : i.toNat < s.count.toNat ∨ i = s.count ∧ s.count.toNat < 16283) :
    1 ≤ (s.olderIndex i).toNat ∧ (s.olderIndex i).toNat ≤ s.count.toNat ∧
      s.count.toNat + 1 - (s.olderIndex i).toNat < 16283 := by
  have hcap : s.count.toNat ≤ 16283 := hr.2.1
  have hle : i.toNat ≤ s.count.toNat := index_le hi
  rw [State.olderIndex]
  split
  · omega
  · next hfull =>
    have hlt : i.toNat < s.count.toNat := hi.resolve_right fun h => hfull h.2
    have hsucc : (i + 1).toNat = i.toNat + 1 := BitVec.toNat_add_of_lt (show i.toNat + 1 < 65536 by omega)
    omega

/-- Below CAPACITY an index keeps its slot; at CAPACITY index `i` has the slot that index `i + 1` had. -/
theorem slotOf_appended {i : Word} (hr : RingReady Config.params s) (h1 : 1 ≤ i.toNat)
    (hi : i.toNat < s.count.toNat ∨ i = s.count ∧ s.count.toNat < 16283) :
    (s.appended w rest).slotOf i.toNat = s.slotOf (s.olderIndex i).toNat := by
  obtain ⟨-, hle, -⟩ := olderIndex_inside hr h1 hi
  have hcap : s.count.toNat ≤ 16283 := hr.2.1
  have hsteps : min (s.count.toNat + 1) 16283 + 1 - i.toNat = s.count.toNat + 1 - (s.olderIndex i).toNat + 1 := by
    rw [State.olderIndex] at hle ⊢
    split at hle
    · next hlt =>
      rw [if_pos hlt, min_eq_left (by omega)]
      omega
    · next hfull =>
      rw [if_neg hfull, min_eq_right (by omega)]
      have hlt : i.toNat < s.count.toNat := hi.resolve_right fun h => hfull h.2
      have hsucc : (i + 1).toNat = i.toNat + 1 := BitVec.toNat_add_of_lt (show i.toNat + 1 < 65536 by omega)
      omega
  rw [State.slotOf, count_appended_toNat, hsteps, show (s.appended w rest).cursor = s.nextCursor from rfl,
    nextCursor_toNat hr.2.2, backSlot_nextSlot legal_default hr.2.2, State.slotOf]

/-- Fewer than `N_SLOTS` steps of `Prev` do not come back to the slot they began at. -/
theorem backSlot_ne {c k : Nat} (hc : ValidSlot Config.params c) (h1 : 1 ≤ k) (hk : k < 16283) :
    backSlot Config.params c k ≠ c := by
  obtain ⟨hpos, haddr⟩ := validSlot_position legal_default hc
  have hback := backSlot_slotAddr legal_default hpos hk.le
  rw [haddr] at hback
  intro heq
  have hsame := congrArg (slotPos Config.params) (hback.symm.trans heq)
  rw [slotPos_slotAddr legal_default] at hsame
  have hslots : Config.params.nSlots = 16283 := rfl
  rw [hslots] at hsame hpos
  omega

/-! ## The statements -/

/-- Settles O40: LAST_RECORD reads the slot behind the advanced cursor, which is the slot that was written. -/
theorem appendedRecordIsTheLastRecord : Obligations.AppendedRecordIsTheLastRecord := by
  intro s level thread code rest hp hprot hm hr hl ht hc has
  rw [show 25 = 24 + 1 from rfl, goodThen_add] at has
  let t := s.appended (recordOf level thread code) (goodThen 1 rest)
  obtain ⟨-, -, hlast, -⟩ := lastRecordReadsBehindTheCursor t rest rfl
  have hslot : (if t.cursor = 200 then 32764 else t.cursor.toNat - 2) = s.cursor.toNat := by
    rw [← prevSlot_cursor, show t.cursor = s.nextCursor from rfl, nextCursor_toNat hr.2.2,
      prevSlot_nextSlot legal_default hr.2.2]
  refine ⟨t, _, exec_append_good hp hprot hm hr hl ht hc has,
    hlast (ringReady_appended hr) (count_appended_ne_zero s _ _) rfl, ?_⟩
  rw [hslot, slotWord_appended_cursor hm hr]
  exact List.append_assoc ..

/-- Settles O41: both commands read the same slot, which the APPEND did not write. -/
theorem appendKeepsTheOlderRecords : Obligations.AppendKeepsTheOlderRecords := by
  intro s level thread code i rest hp hprot hm hr hl ht hc has h1 hi
  have has' : s.answers = goodThen 24 (goodThen 1 rest) := has.trans (goodThen_add 24 1 rest)
  let t := s.appended (recordOf level thread code) (goodThen 1 rest)
  have hready : RingReady Config.params t := ringReady_appended hr
  obtain ⟨ho1, hole, hback⟩ := olderIndex_inside hr h1 hi
  have hit : i.toNat ≤ t.count.toNat := by
    have hcap : s.count.toNat ≤ 16283 := hr.2.1
    have hle : i.toNat ≤ s.count.toNat := index_le hi
    rw [count_appended_toNat]
    exact le_min (hle.trans (Nat.le_succ _)) (hle.trans hcap)
  obtain ⟨-, -, -, hafter, -⟩ := recordAtReadsTheIndexedSlot { t with response := [] } i rest rfl
  obtain ⟨-, -, -, hbefore, -⟩ := recordAtReadsTheIndexedSlot { s with response := [] } (s.olderIndex i)
    (goodThen 24 rest) hp
  refine ⟨t, _, _, exec_append_good hp hprot hm hr hl ht hc has', hafter hready h1 hit rfl,
    hbefore hr ho1 hole has, ?_⟩
  have hslot : t.slotOf i.toNat = s.slotOf (s.olderIndex i).toNat := slotOf_appended hr h1 hi
  have hword : t.slotWord (t.slotOf i.toNat) = s.slotWord (s.slotOf (s.olderIndex i).toNat) := by
    rw [hslot]
    exact slotWord_appended_other hm hr (slotOf_valid hr _) (backSlot_ne hr.2.2 (by omega) hback)
  exact congrArg (fun r => [beat .ok true r]) hword

end Sys2Proof.Machine
end

section
/-! What one exchange of a write can do, whatever the transport and the medium do short of a loss of power (R111-R113,
R131-R133): the gate goes on, or the command fails, or the read-back has verified its byte. -/

namespace Sys2Proof.Machine

variable {P : Params} {c : Instr} {k : Position} {job : WriteJob} {g g' : GateStep} {s t u : State} {st : Status}
  {x : Exchange} {a : Nat} {b b0 b1 d : Byte} {addr : Word} {f : Fate} {o : TransportOutcome} {rx : Bytes}

/-! ## The step after an exchange of a write -/

theorem gateNext_fails_ne_ok {st' : Status} (hg : g ≠ .readBack) (h : gateNext g st = .fails st') : st' ≠ .ok := by
  cases g with
  | wren =>
    simp only [gateNext] at h
    split at h <;> cases h
  | write => cases h
  | wrdi r =>
    simp only [gateNext] at h
    split at h
    · next hr => cases h; exact hr
    · split at h
      · next hst => cases h; exact hst
      · cases h
  | readBack => exact absurd rfl hg

/-- A read-back is a mismatch, which fails the command, or leads to the next byte or past the write (R131-R133). -/
theorem afterReadBack_ok (hjob : jobTarget P job s = .ok (a, b0, b1)) (h : afterReadBack P c job b s = .ok t) :
    t = { s with rb := b }.raise .writeFailed ∨
    (b = byteAt s.j b0 b1 ∧
      ((s.j = 0 ∧ issue P c (.write job .wren) { s with rb := b, j := 1 } = .ok t) ∨
       (s.j ≠ 0 ∧ afterJob P c job { s with rb := b } = .ok t))) := by
  simp only [afterReadBack, hjob] at h
  split at h
  · next hv =>
    refine .inr ⟨beq_iff_eq.mp hv, ?_⟩
    split at h
    · next hj => exact .inl ⟨hj, h⟩
    · next hj => exact .inr ⟨hj, h⟩
  · cases h
    exact .inl rfl

/-- The step after an exchange of a write: the gate's next exchange, a failure, or what follows the read-back. -/
theorem afterExchange_write_ok (hjob : jobTarget P job s = .ok (a, b0, b1))
    (h : afterExchange P c (.write job g) st rx s = .ok t) :
    (∃ g', gateNext g st = .goTo g' ∧ issue P c (.write job g') s = .ok t) ∨
    (∃ st' b, st' ≠ .ok ∧ t = { s with rb := b }.raise st') ∨
    (g = .readBack ∧ st = .ok ∧ rx = [byteAt s.j b0 b1] ∧
      ((s.j = 0 ∧ issue P c (.write job .wren) { s with rb := byteAt s.j b0 b1, j := 1 } = .ok t) ∨
       (s.j ≠ 0 ∧ afterJob P c job { s with rb := byteAt s.j b0 b1 } = .ok t))) := by
  cases g with
  | wren | write | wrdi =>
    simp only [afterExchange] at h
    split at h
    · next g' hn => exact .inl ⟨g', hn, h⟩
    · next st' hn =>
      cases h
      exact .inr (.inl ⟨st', s.rb, gateNext_fails_ne_ok GateStep.noConfusion hn, rfl⟩)
  | readBack =>
    simp only [afterExchange] at h
    split at h
    · next hst => cases h; exact .inr (.inl ⟨st, s.rb, hst, rfl⟩)
    · next hst =>
      split at h
      · next b =>
        obtain rfl | ⟨rfl, hnext⟩ := afterReadBack_ok hjob h
        · exact .inr (.inl ⟨.writeFailed, b, Status.noConfusion, rfl⟩)
        · exact .inr (.inr ⟨rfl, not_not.mp hst, rfl, hnext⟩)
      · cases h

/-! ## The exchange itself -/

/-- The frame of a gate step at the byte's address (R111, R131). -/
def GateStep.frame (g : GateStep) (addr : Word) (d : Byte) : Instr :=
  match g with
  | .wren => .mediumWren
  | .write => .mediumWrite addr d
  | .wrdi _ => .mediumWrdi
  | .readBack => .mediumRead addr 1

theorem decodeFrame_gate (hjob : jobTarget Config.params job s = .ok (a, b0, b1))
    (hx : exchangeAt Config.params c (.write job g) s = .ok x) :
    decodeFrame Config.params x = .ok (g.frame (BitVec.ofNat 16 (a + s.j.toNat)) (byteAt s.j b0 b1)) := by
  cases g with
  | wren => obtain rfl := Except.ok.inj (hx.symm.trans (exchangeAt_wren hjob)); exact decodeFrame_wren
  | write => obtain rfl := Except.ok.inj (hx.symm.trans (exchangeAt_write hjob)); exact decodeFrame_write ..
  | wrdi r => obtain rfl := Except.ok.inj (hx.symm.trans (exchangeAt_wrdi hjob r)); exact decodeFrame_wrdi
  | readBack => obtain rfl := Except.ok.inj (hx.symm.trans (exchangeAt_readBack hjob)); exact decodeFrame_readOne _

/-- The contents that a gate step at `addr` can leave: the same, or with a byte stored there by a WRITE. -/
def GateStep.Leaves (g : GateStep) (addr : Word) (m m' : Mem) : Prop :=
  m' = m ∨ (g = .write ∧ ∃ d, m' = Mem.write Config.params.eraseValue m addr.toNat d)

/-- What a gate step can do at the medium; its READ also says where it read. -/
theorem mediumFrame_gate_ok (h : mediumFrame Config.params (g.frame addr d) f s = .ok (rx, u)) :
    MediumOnly s u ∧ g.Leaves addr s.mem u.mem ∧
      (g = .readBack → mediumReadAt Config.params addr 1 f s = .ok rx) := by
  refine ⟨(mediumFrame_ok h).1, ?_⟩
  cases g with
  | wren => cases h; exact ⟨.inl (mediumLatch_mem ..), GateStep.noConfusion⟩
  | wrdi => cases h; exact ⟨.inl (mediumLatch_mem ..), GateStep.noConfusion⟩
  | readBack =>
    obtain ⟨rfl, hread⟩ := mediumFrame_read_ok h
    exact ⟨.inl rfl, fun _ => hread⟩
  | write =>
    simp only [GateStep.frame, mediumFrame] at h
    split at h
    · cases h
    · next hw =>
      cases h
      obtain ⟨-, -, hm | ⟨-, b, hm⟩⟩ := mediumWriteAt_ok hw
      · exact ⟨.inl hm, GateStep.noConfusion⟩
      · exact ⟨.inr ⟨rfl, b, hm⟩, GateStep.noConfusion⟩

/-- `v` is `s` after the exchange of a gate step at `addr`, recorded and released. -/
def AfterFrame (g : GateStep) (addr : Word) (s v : State) : Prop :=
  ∃ m w r, g.Leaves addr s.mem m ∧ v = s.exchanged s.answers m w [r]

/-- What follows the exchange of gate step `g` in `s`, after which the state is `v`; `addr` and `b` are the byte's. -/
inductive WriteStep (c : Instr) (job : WriteJob) (g : GateStep) (f : Fate) (addr : Word) (b : Byte) (s v t : State) :
    Prop where
  /-- The gate's next exchange (R111). -/
  | goesOn {g' : GateStep} {st : Status} (hn : gateNext g st = .goTo g')
      (ht : issue Config.params c (.write job g') v = .ok t)
  /-- The command has failed (R112, R113, R132). -/
  | fails {st : Status} {b' : Byte} (hst : st ≠ .ok) (ht : t = { v with rb := b' }.raise st)
  /-- The first byte is verified: the second comes next (R131). -/
  | nextByte (hg : g = .readBack) (hread : mediumReadAt Config.params addr 1 f s = .ok [b]) (hj : s.j = 0)
      (ht : issue Config.params c (.write job .wren) { v with rb := b, j := 1 } = .ok t)
  /-- The second byte is verified: the command goes on. -/
  | pastWrite (hg : g = .readBack) (hread : mediumReadAt Config.params addr 1 f s = .ok [b]) (hj : s.j ≠ 0)
      (ht : afterJob Config.params c job { v with rb := b } = .ok t)

/-- One exchange of a write that returns. -/
theorem completeExchange_write_ok (hjob : jobTarget Config.params job s = .ok (a, b0, b1))
    (hx : exchangeAt Config.params c (.write job g) s = .ok x) (htr : s.transport = some x)
    (h : completeExchange Config.params c (.write job g) (.returns o f) s = .ok t) :
    ∃ v, AfterFrame g (BitVec.ofNat 16 (a + s.j.toNat)) s v ∧
      WriteStep c job g f (BitVec.ofNat 16 (a + s.j.toNat)) (byteAt s.j b0 b1) s v t := by
  obtain ⟨y, i, hy, hi, ⟨b, w, u, hb, -⟩ | ⟨o', f', rx, u, hb, hm, hafter⟩⟩ := completeExchange_ok h
  · cases hb
  · cases hb
    obtain rfl : y = x := Option.some.inj (hy.symm.trans htr)
    obtain rfl := Except.ok.inj (hi.symm.trans (decodeFrame_gate hjob hx))
    obtain ⟨honly, hleaves, hread⟩ := mediumFrame_gate_ok hm
    rw [MediumOnly] at honly
    let v := s.exchanged s.answers u.mem u.wel [completed y o (if o = .ok then rx else [])]
    have hv : (u.note y (some o) (if o = .ok then rx else [])).release = v := by
      rw [honly]
      rfl
    have hjobv : jobTarget Config.params job v = .ok (a, b0, b1) := hjob
    rw [hv] at hafter
    refine ⟨v, ⟨u.mem, u.wel, _, hleaves, rfl⟩, ?_⟩
    obtain ⟨g', hn, ht⟩ | ⟨st, b', hst, ht⟩ | ⟨rfl, hst, hrx, hnext⟩ := afterExchange_write_ok hjobv hafter
    · exact .goesOn hn ht
    · exact .fails hst ht
    · rw [if_pos (status_eq_ok hst)] at hrx
      have hread' := (hread rfl).trans (congrArg Except.ok hrx)
      obtain ⟨hj, ht⟩ | ⟨hj, ht⟩ := hnext
      · exact .nextByte rfl hread' hj ht
      · exact .pastWrite rfl hread' hj ht

end Sys2Proof.Machine
end

section
/-! APPEND whatever its exchanges do short of a loss of power (R147, R156). It writes six bytes one after the other,
each in a window of its own; what stands at window `p` is that the bytes before it are verified, the bytes after it
untouched, and the registers those of R148 and R149 so far. -/

namespace Sys2Proof.Machine

variable {s t u v : State} {c : Instr} {w : Word} {p q : Nat} {g g' : GateStep} {st : Status} {addr : Word} {m m' : Mem}

/-! ## The six windows -/

/-- The write that window `p` belongs to. -/
def windowJob : Nat → WriteJob
  | 0 | 1 => .payload
  | 2 | 3 => .newCount
  | _ => .newCursor

/-- Which of its write's two bytes window `p` stores. -/
def windowByte : Nat → Byte
  | 0 | 2 | 4 => 0
  | _ => 1

/-- Where window `p` of an APPEND of the record `w` stores which byte (R147-R149). -/
def State.appendWrite (s : State) (w : Word) : Nat → Nat × Byte
  | 0 => (s.cursor.toNat, hiByte w)
  | 1 => (s.cursor.toNat + 1, loByte w)
  | 2 => (100, hiByte (saturatingCount Config.params s.count))
  | 3 => (101, loByte (saturatingCount Config.params s.count))
  | 4 => (102, hiByte s.nextCursor)
  | _ => (103, loByte s.nextCursor)

/-- The six bytes are at six addresses. -/
theorem appendWrite_ne (hr : RingReady Config.params s) (hq : q < p) (hp : p < 6) :
    (s.appendWrite w q).1 ≠ (s.appendWrite w p).1 := by
  have hslot := (validSlot_default.mp hr.2.2).1
  interval_cases p <;> interval_cases q <;> simp only [State.appendWrite] <;> omega

/-- The fewest exchanges a window has made when gate step `g` comes next. A failed WREN has skipped the WRITE (R112). -/
def GateStep.least : GateStep → Nat
  | .wren => 0
  | .write => 1
  | .wrdi r => if r = .ok then 2 else 1
  | .readBack => 3

/-- The most exchanges a window has made when gate step `g` comes next. -/
def GateStep.most : GateStep → Nat
  | .wren => 0
  | .write => 1
  | .wrdi _ => 2
  | .readBack => 3

theorem GateStep.most_le (g : GateStep) : g.most ≤ 3 := by cases g <;> simp [GateStep.most]

theorem gateNext_exchanges (h : gateNext g st = .goTo g') : g'.least ≤ g.least + 1 ∧ g.most + 1 ≤ g'.most := by
  cases g with
  | wren =>
    simp only [gateNext] at h
    split at h
    · cases h; decide
    · next hst => cases h; simp [GateStep.least, GateStep.most, hst]
  | write =>
    cases h
    simp only [GateStep.least, GateStep.most]
    split <;> decide
  | wrdi r =>
    simp only [gateNext] at h
    split at h
    · cases h
    · next hr =>
      split at h
      · cases h
      · cases h; simp [GateStep.least, GateStep.most, not_not.mp hr]
  | readBack => cases h

/-! ## What stands at a window -/

/-- What APPEND leaves unchanged, and how it adds to the channels' past. -/
structure AppendFrame (s u : State) : Prop where
  mode : u.mode = s.mode
  i : u.i = s.i
  cnt0 : u.cnt0 = s.cnt0
  cur0 : u.cur0 = s.cur0
  requests : u.requests = s.requests
  inbox : u.inbox = s.inbox
  protect : u.protect = s.protect
  hold : u.hold = s.hold
  heldFrames : u.heldFrames = s.heldFrames
  exchanges : s.exchanges <+: u.exchanges
  answers : u.answers <:+ s.answers

theorem AppendFrame.refl (s : State) : AppendFrame s s :=
  ⟨rfl, rfl, rfl, rfl, rfl, rfl, rfl, rfl, rfl, List.prefix_rfl, List.suffix_rfl⟩

/-- The registers at window `p` of an APPEND of the record `w`. -/
structure AppendRegs (s : State) (w : Word) (p : Nat) (u : State) : Prop where
  boot : u.mode = .boot
  cursor : u.cursor = s.cursor
  count : u.count = if p < 4 then s.count else saturatingCount Config.params s.count
  hi : u.hi = hiByte w
  lo : u.lo = loByte w
  newCount : 2 ≤ p → u.newCount = saturatingCount Config.params s.count
  newCursor : 4 ≤ p → u.newCursor = s.nextCursor
  j : u.j = windowByte p

/-- Read-backs tell what the medium holds, and the bytes of the slot are none of the metadata's. -/
def Trusted (s : State) : Prop :=
  MediumOk Config.params s ∧ RingReady Config.params s ∧ (s.hold = true → s.faithful = true)

/-- The medium's content `m` at window `p` of an APPEND of the record `w`. -/
structure AppendBytes (s : State) (w : Word) (p : Nat) (m : Mem) : Prop where
  /-- Past the first window the slot's first byte is known to be on the medium. -/
  cursor : p ≠ 0 → s.cursor.toNat < 32768
  wf : MediumOk Config.params s → Mem.wf Config.params.eraseValue m = true
  outside : MediumOk Config.params s → ∀ x, (∀ q ≤ p, x ≠ (s.appendWrite w q).1) →
    Mem.read Config.params.eraseValue m x = s.byte x
  verified : Trusted s → ∀ q < p, Mem.read Config.params.eraseValue m (s.appendWrite w q).1 = (s.appendWrite w q).2

/-- Everything that stands at window `p`, between exchanges as well. -/
structure AppendFacts (s : State) (w : Word) (p : Nat) (u : State) : Prop where
  lt : p < 6
  frame : AppendFrame s u
  regs : AppendRegs s w p u
  bytes : AppendBytes s w p u.mem
  response : u.response = s.response

/-- `u` waits for the exchange of step `g` of window `p`. -/
structure AppendAt (s : State) (w : Word) (c : Instr) (p : Nat) (g : GateStep) (u : State) : Prop where
  facts : AppendFacts s w p u
  phase : u.phase = .run c (.write (windowJob p) g)
  transport : ∃ x, exchangeAt Config.params c (.write (windowJob p) g) u = .ok x ∧ u.transport = some x
  atLeast : s.exchanges.length + 4 * p + g.least ≤ u.exchanges.length
  atMost : u.exchanges.length ≤ s.exchanges.length + 4 * p + g.most

/-! ## Where a window writes -/

/-- The target of the write that window `p` belongs to is the window's own byte. -/
theorem jobTarget_window (h : AppendRegs s w p u) (hp : p < 6) :
    ∃ a b0 b1, jobTarget Config.params (windowJob p) u = .ok (a, b0, b1) ∧
      a + u.j.toNat = (s.appendWrite w p).1 ∧ byteAt u.j b0 b1 = (s.appendWrite w p).2 := by
  rw [h.j]
  match p, hp with
  | 0, _ => exact ⟨_, _, _, jobTarget_payload h.boot, by rw [h.cursor]; rfl, h.hi⟩
  | 1, _ => exact ⟨_, _, _, jobTarget_payload h.boot, by rw [h.cursor]; rfl, h.lo⟩
  | 2, _ => exact ⟨_, _, _, jobTarget_newCount u, rfl, by rw [h.newCount (by omega)]; rfl⟩
  | 3, _ => exact ⟨_, _, _, jobTarget_newCount u, rfl, by rw [h.newCount (by omega)]; rfl⟩
  | 4, _ => exact ⟨_, _, _, jobTarget_newCursor u, rfl, by rw [h.newCursor (by omega)]; rfl⟩
  | 5, _ => exact ⟨_, _, _, jobTarget_newCursor u, rfl, by rw [h.newCursor (by omega)]; rfl⟩

/-- The window's address fits into its frame. -/
theorem appendWrite_address (h : AppendBytes s w p m) (hp : p < 6) :
    (BitVec.ofNat 16 (s.appendWrite w p).1 : Word).toNat = (s.appendWrite w p).1 := by
  have hcursor := s.cursor.isLt
  rw [BitVec.toNat_ofNat]
  match p, hp with
  | 0, _ => exact Nat.mod_eq_of_lt hcursor
  | 1, _ => exact Nat.mod_eq_of_lt (by have := h.cursor (by omega); simp only [State.appendWrite]; omega)
  | 2, _ | 3, _ | 4, _ | 5, _ => rfl

/-! ## One exchange -/

/-- A frame at the window's address leaves what stands at the window. -/
theorem AppendBytes.leaves (h : AppendBytes s w p m) (hp : p < 6) (haddr : addr.toNat = (s.appendWrite w p).1)
    (hl : g.Leaves addr m m') : AppendBytes s w p m' := by
  obtain rfl | ⟨-, d, rfl⟩ := hl
  · exact h
  · rw [haddr]
    refine ⟨h.cursor, fun hm => Mem.wf_write _ _ (h.wf hm), fun hm x hx => ?_, fun ht q hq => ?_⟩
    · rw [Mem.read_write_other _ (h.wf hm) (hx p le_rfl)]
      exact h.outside hm x hx
    · rw [Mem.read_write_other _ (h.wf ht.1) (appendWrite_ne ht.2.1 hq hp)]
      exact h.verified ht q hq

/-- A verified byte joins those that stand. -/
theorem AppendBytes.next {f : Fate} (h : AppendBytes s w p u.mem) (haddr : addr.toNat = (s.appendWrite w p).1)
    (hread : mediumReadAt Config.params addr 1 f u = .ok [(s.appendWrite w p).2])
    (hf : Trusted s → u.hold = true → ∀ b0 b1, f ≠ .delivers b0 b1) : AppendBytes s w (p + 1) u.mem := by
  obtain ⟨hinside, hbytes⟩ := mediumReadAt_ok hread
  refine ⟨fun _ => ?_, h.wf, fun hm x hx => h.outside hm x fun q hq => hx q (Nat.le_succ_of_le hq), fun ht q hq => ?_⟩
  · by_cases hzero : p = 0
    · rw [haddr, hzero] at hinside
      exact hinside
    · exact h.cursor hzero
  · obtain hq | rfl := Nat.lt_succ_iff_lt_or_eq.mp hq
    · exact h.verified ht q hq
    · obtain hmem | ⟨hh, b0, b1, hd, -⟩ := hbytes
      · rw [Mem.readBytes_one, haddr] at hmem
        exact (List.singleton_inj.mp hmem).symm
      · exact absurd hd (hf ht hh b0 b1)

/-- An exchange of the window leaves what stands, and makes the record one longer. -/
theorem AppendFacts.afterFrame (h : AppendFacts s w p u) (haddr : addr.toNat = (s.appendWrite w p).1)
    (hv : AfterFrame g addr u v) : AppendFacts s w p v ∧ v.exchanges.length = u.exchanges.length + 1 := by
  obtain ⟨m, wel, r, hl, rfl⟩ := hv
  obtain ⟨hp, hframe, hregs, hbytes, hresp⟩ := h
  exact ⟨⟨hp, { hframe with exchanges := hframe.exchanges.trans (List.prefix_append _ _) }, { hregs with },
    hbytes.leaves hp haddr hl, hresp⟩, List.length_append⟩

/-- Going to a gate step of the window. -/
theorem AppendFacts.goTo (h : AppendFacts s w p v)
    (ht : issue Config.params c (.write (windowJob p) g) v = .ok t)
    (hleast : s.exchanges.length + 4 * p + g.least ≤ v.exchanges.length)
    (hmost : v.exchanges.length ≤ s.exchanges.length + 4 * p + g.most) : AppendAt s w c p g t := by
  obtain ⟨x, hx, rfl⟩ := issue_ok ht
  obtain ⟨hp, hframe, hregs, hbytes, hresp⟩ := h
  exact ⟨⟨hp, { hframe with }, { hregs with }, hbytes, hresp⟩, rfl,
    ⟨x, (exchangeAt_channels _ _ v.response v.answers v.exchanges v.mem v.wel).trans hx, rfl⟩, hleast, hmost⟩

/-! ## The next window -/

/-- From the first byte of a write to the second. -/
theorem AppendRegs.nextByte (h : AppendRegs s w p u) (hp : p < 6) (hj : u.j = 0) (b : Byte) :
    AppendRegs s w (p + 1) { u with rb := b, j := 1 } ∧ windowJob (p + 1) = windowJob p ∧ p + 1 < 6 := by
  rw [h.j] at hj
  match p, hp with
  | 0, _ => exact ⟨{ h with newCount := by omega, newCursor := by omega, j := rfl }, rfl, by decide⟩
  | 2, _ => exact ⟨{ h with newCount := fun _ => h.newCount le_rfl, newCursor := by omega, j := rfl }, rfl, by decide⟩
  | 4, _ =>
    exact ⟨{ h with
      newCount := fun _ => h.newCount (by omega), newCursor := fun _ => h.newCursor le_rfl, j := rfl }, rfl, by decide⟩
  | 1, _ | 3, _ | 5, _ => exact absurd hj (by decide)

theorem cursorSlot_ok {P : Params} {a : Nat} (h : cursorSlot P u = .ok a) : a = u.cursor.toNat := by
  unfold cursorSlot readCursor at h
  split at h
  · cases h
  · next hc =>
    split at hc <;> cases hc
    split at h
    · exact (Except.ok.inj h).symm
    · cases h

/-- From one write to the next, or past the last. -/
theorem AppendFacts.nextWrite (h : AppendFacts s w p u) (hb : AppendBytes s w (p + 1) u.mem) (hj : u.j ≠ 0)
    (ht : afterJob Config.params c (windowJob p) u = .ok t) :
    (p = 5 ∧ t = wroteCursor u) ∨
    ∃ v, AppendFacts s w (p + 1) v ∧ v.exchanges = u.exchanges ∧
      issue Config.params c (.write (windowJob (p + 1)) .wren) v = .ok t := by
  obtain ⟨hp, hframe, hregs, -, hresp⟩ := h
  rw [hregs.j] at hj
  match p, hp, hregs, hb, hj, ht with
  | 1, _, hregs, hb, _, ht =>
    let v : State := { u with newCount := saturatingCount Config.params u.count, j := 0 }
    have ht' : startWrite Config.params c .newCount { u with newCount := saturatingCount Config.params u.count } =
        .ok t := (wrotePayload_ready hregs.boot).symm.trans ht
    have hv : AppendRegs s w 2 v :=
      { hregs with
        newCount := fun _ => congrArg (saturatingCount Config.params) hregs.count, newCursor := by omega, j := rfl }
    exact .inr ⟨v, ⟨by decide, { hframe with }, hv, hb, hresp⟩, rfl, ht'⟩
  | 3, _, hregs, hb, _, ht =>
    simp only [windowJob, afterJob, wroteCount] at ht
    split at ht
    · cases ht
    · next a ha =>
      obtain rfl := cursorSlot_ok ha
      let v : State := { u with count := u.newCount, newCursor := u.nextCursor, j := 0 }
      have hcursor : u.nextCursor = s.nextCursor := by rw [State.nextCursor, hregs.cursor, State.nextCursor]
      have hv : AppendRegs s w 4 v :=
        { hregs with
          count := hregs.newCount (by omega), newCount := fun _ => hregs.newCount (by omega)
          newCursor := fun _ => hcursor, j := rfl }
      exact .inr ⟨v, ⟨by decide, { hframe with }, hv, hb, hresp⟩, rfl, ht⟩
  | 5, _, _, _, _, ht => exact .inl ⟨rfl, (Except.ok.inj ht).symm⟩
  | 0, _, _, _, hj, _ | 2, _, _, _, hj, _ | 4, _, _, _, hj, _ => exact absurd rfl hj

/-! ## A run of APPEND -/

/-- Where a run of APPEND of the record `w` can stand. -/
inductive AppendRun (s : State) (w : Word) (c : Instr) : State → Prop where
  /-- Ended by a check, before the first exchange (R203). -/
  | rejected (st : Status) (hst : st ≠ .ok) : AppendRun s w c (s.answered (beat st true 0))
  /-- In a window. -/
  | running (p : Nat) (g : GateStep) (u : State) (h : AppendAt s w c p g u) : AppendRun s w c u
  /-- Ended by a failure in window `p`. -/
  | failed (p : Nat) (u : State) (st : Status) (h : AppendFacts s w p u) (hst : st ≠ .ok)
      (hleast : s.exchanges.length + 4 * p + 1 ≤ u.exchanges.length)
      (hmost : u.exchanges.length ≤ s.exchanges.length + 4 * p + 4) : AppendRun s w c (u.raise st)
  /-- Ended past the last window. -/
  | done (u : State) (h : AppendFacts s w 5 u) : AppendRun s w c (wroteCursor u)

/-- A verified byte leads to the next window, or past the last. -/
theorem appendRun_verified (h : AppendFacts s w p u) (hb : AppendBytes s w (p + 1) u.mem)
    (hleast : s.exchanges.length + 4 * (p + 1) ≤ u.exchanges.length)
    (hmost : u.exchanges.length ≤ s.exchanges.length + 4 * (p + 1)) (b : Byte)
    (ht : (u.j = 0 ∧ issue Config.params c (.write (windowJob p) .wren) { u with rb := b, j := 1 } = .ok t) ∨
      (u.j ≠ 0 ∧ afterJob Config.params c (windowJob p) { u with rb := b } = .ok t)) : AppendRun s w c t := by
  obtain ⟨hp, hframe, hregs, hbytes, hresp⟩ := h
  obtain ⟨hj, ht⟩ | ⟨hj, ht⟩ := ht
  · obtain ⟨hnext, hjob, hp'⟩ := hregs.nextByte hp hj b
    rw [← hjob] at ht
    have hfacts : AppendFacts s w (p + 1) { u with rb := b, j := 1 } := ⟨hp', { hframe with }, hnext, hb, hresp⟩
    exact .running _ _ _ (hfacts.goTo ht hleast hmost)
  · have hfacts : AppendFacts s w p { u with rb := b } := ⟨hp, { hframe with }, { hregs with }, hbytes, hresp⟩
    obtain ⟨rfl, rfl⟩ | ⟨v, hv, hlen, hgo⟩ := hfacts.nextWrite hb hj ht
    · exact .done _ hfacts
    · have hlen' : v.exchanges = u.exchanges := hlen
      rw [← hlen'] at hleast hmost
      exact .running _ _ _ (hv.goTo hgo hleast hmost)

/-- Every exchange of a run that returns leads on along the run. -/
theorem completeExchange_appendRun {o : TransportOutcome} {f : Fate} (h : AppendAt s w c p g u)
    (hf : Trusted s → u.hold = true → ∀ b0 b1, f ≠ .delivers b0 b1)
    (hx : completeExchange Config.params c (.write (windowJob p) g) (.returns o f) u = .ok t) : AppendRun s w c t := by
  obtain ⟨hfacts, -, ⟨x, hat, htr⟩, hleast, hmost⟩ := h
  obtain ⟨a, b0, b1, hjob, haddr, hbyte⟩ := jobTarget_window hfacts.regs hfacts.lt
  obtain ⟨v, hv, hstep⟩ := completeExchange_write_ok hjob hat htr hx
  rw [haddr, hbyte] at hstep
  rw [haddr] at hv
  have hto := appendWrite_address hfacts.bytes hfacts.lt
  obtain ⟨hvfacts, hlen⟩ := hfacts.afterFrame hto hv
  have hverified (hg : g = .readBack)
      (hread : mediumReadAt Config.params (BitVec.ofNat 16 (s.appendWrite w p).1) 1 f u = .ok [(s.appendWrite w p).2])
      (ht : (v.j = 0 ∧ issue Config.params c (.write (windowJob p) .wren)
          { v with rb := (s.appendWrite w p).2, j := 1 } = .ok t) ∨
        (v.j ≠ 0 ∧ afterJob Config.params c (windowJob p) { v with rb := (s.appendWrite w p).2 } = .ok t)) :
      AppendRun s w c t := by
    obtain ⟨m, wel, r, hmem | ⟨hw, -⟩, rfl⟩ := hv
    · subst hg
      subst hmem
      have hnext := hfacts.bytes.next hto hread hf
      simp only [GateStep.least, GateStep.most] at hleast hmost
      exact appendRun_verified hvfacts hnext (by omega) (by omega) _ ht
    · cases hg.symm.trans hw
  have hj : v.j = u.j := hvfacts.regs.j.trans hfacts.regs.j.symm
  cases hstep with
  | goesOn hn ht =>
    obtain ⟨hl, hm⟩ := gateNext_exchanges hn
    exact .running _ _ _ (hvfacts.goTo ht (by omega) (by omega))
  | @fails st b' hst ht =>
    have hle := g.most_le
    obtain ⟨hp, hframe, hregs, hbytes, hresp⟩ := hvfacts
    have hrb : AppendFacts s w p { v with rb := b' } := ⟨hp, { hframe with }, { hregs with }, hbytes, hresp⟩
    rw [ht]
    exact .failed p _ st hrb hst (by simp only [hlen]; omega) (by simp only [hlen]; omega)
  | nextByte hg hread hz ht => exact hverified hg hread (.inl ⟨hj.trans hz, ht⟩)
  | pastWrite hg hread hz ht => exact hverified hg hread (.inr ⟨fun h => hz (hj.symm.trans h), ht⟩)

end Sys2Proof.Machine
end

section
/-! APPEND over its whole run: what it leaves unchanged (R147), the state after a failure (R156), and that no command
but INIT changes MODE (R153). -/

namespace Sys2Proof.Machine

variable {s t u : State} {c : Instr} {w : Word} {p : Nat} {g : GateStep} {level thread : Byte} {code : Word}

/-! ## Every APPEND is such a run -/

theorem checkRecord_none (h : checkRecord Config.params level thread code = none) :
    level.toNat < 8 ∧ thread.toNat < 8 ∧ code.toNat < 1023 := by
  have hin : ¬ (8 ≤ level.toNat ∨ 8 ≤ thread.toNat ∨ 1023 ≤ code.toNat) := fun hout => by
    cases h.symm.trans (checkRecord_outside hout)
  omega

theorem checkRecord_some {P : Params} {st : Status} (h : checkRecord P level thread code = some st) :
    st = .invalidArgument := by
  unfold checkRecord at h
  split at h <;> cases h
  rfl

/-- At its beginning APPEND is rejected, or waits for the WREN of its first window. -/
theorem beginAppend_appendRun (hc : c = .append level thread code)
    (h : beginCommand Config.params c (s.accept c) = .ok u) : AppendRun s (recordOf level thread code) c u := by
  subst hc
  let c : Instr := .append level thread code
  have hstart : startAppend Config.params level thread code (s.accept c) = .ok u := h
  obtain ⟨hm, -⟩ | ⟨hm, -⟩ := checkMode_cases s
  · have hraise := (beginCommand_uninit (c := c) (s := s.accept c) rfl Instr.noConfusion hm).symm.trans h
    obtain rfl := Except.ok.inj hraise
    exact .rejected .uninitialized Status.noConfusion
  · cases hcheck : checkRecord Config.params level thread code with
    | some st =>
      simp only [startAppend, checkMode_boot (s := s.accept c) hm, hcheck] at hstart
      obtain rfl := Except.ok.inj hstart
      obtain rfl := checkRecord_some hcheck
      exact .rejected .invalidArgument Status.noConfusion
    | none =>
      obtain ⟨hl, ht, hcode⟩ := checkRecord_none hcheck
      have hwrite := (startAppend_ready (s := s.accept c) hm hl ht hcode).symm.trans hstart
      let w := recordOf level thread code
      let v : State := { s.accept c with hi := hiByte w, lo := loByte w, j := 0 }
      have hframe : AppendFrame s v := { AppendFrame.refl s with }
      have hregs : AppendRegs s w 0 v := ⟨hm, rfl, rfl, rfl, rfl, by omega, by omega, rfl⟩
      have hbytes : AppendBytes s w 0 v.mem := ⟨fun h => absurd rfl h, fun hm => hm.1, fun _ _ _ => rfl, by omega⟩
      have hfacts : AppendFacts s w 0 v := ⟨by decide, hframe, hregs, hbytes, rfl⟩
      exact .running 0 .wren u (hfacts.goTo hwrite le_rfl le_rfl)

theorem AppendAt.nextAnswer {b : Answer} {rest : List Answer} (h : AppendAt s w c p g u) (hb : u.answers = b :: rest) :
    AppendAt s w c p g { u with answers := rest } := by
  obtain ⟨⟨hp, hframe, hregs, hbytes, hresp⟩, hphase, ⟨x, hx, htr⟩, hleast, hmost⟩ := h
  have hanswers : rest <:+ s.answers := (List.suffix_cons b rest).trans (hb ▸ hframe.answers)
  exact ⟨⟨hp, { hframe with answers := hanswers }, { hregs with }, hbytes, hresp⟩, hphase,
    ⟨x, (exchangeAt_channels u.phase u.transport u.response rest u.exchanges u.mem u.wel).trans hx, htr⟩, hleast, hmost⟩

/-- Where reads are trusted no coming answer makes a held medium deliver other bytes than its own (log 11). -/
theorem trusted_answer {o : TransportOutcome} {f : Fate} (ht : Trusted s) (hh : s.hold = true)
    (ha : Answer.returns o f ∈ s.answers) (b0 b1 : Byte) : f ≠ .delivers b0 b1 := by
  rintro rfl
  exact Bool.noConfusion (List.all_eq_true.mp (ht.2.2 hh) _ ha)

/-- An APPEND of an idle block without a loss of power, ended or waiting. -/
theorem exec_append_run (hp : s.phase = .idle) (hpow : s.powered = true)
    (h : exec (.append level thread code) s = .next t) :
    AppendRun s (recordOf level thread code) (.append level thread code) t := by
  obtain ⟨u, hu, hrun⟩ := exec_idle_next rfl hp h
  refine runAnswers_keeps (Q := AppendRun s (recordOf level thread code) (.append level thread code)) ?_
    (beginCommand_keeps hu).answers (beginAppend_appendRun rfl hu) hrun
  intro c' k b rest v v' hv hrunning hb hx
  cases hv with
  | rejected | failed | done => cases hrunning
  | running p g _ hat =>
    obtain ⟨rfl, rfl⟩ := Phase.run.inj (hrunning.symm.trans hat.phase)
    have hsuffix : b :: rest <:+ s.answers := hb ▸ hat.facts.frame.answers
    obtain ⟨o, f, rfl⟩ := powered_answer hsuffix hpow
    refine completeExchange_appendRun (hat.nextAnswer hb) (fun ht hh => ?_) hx
    exact trusted_answer ht (hat.facts.frame.hold.symm.trans hh) (hsuffix.subset List.mem_cons_self)

/-! ## What APPEND leaves unchanged -/

/-- The windows write to the slot at CURSOR and to 100..103. -/
theorem appendWrite_outside {x : Nat} (hslot : ¬ (x = s.cursor.toNat ∨ x = s.cursor.toNat + 1))
    (hmeta : ¬ (100 ≤ x ∧ x ≤ 103)) (q : Nat) : x ≠ (s.appendWrite w q).1 := by
  match q with
  | 0 | 1 | 2 | 3 | 4 | _ + 5 => simp only [State.appendWrite]; omega

theorem AppendRun.frame (h : AppendRun s w c t) : AppendFrame s t ∧ s.response <+: t.response := by
  cases h with
  | rejected => exact ⟨{ AppendFrame.refl s with }, List.prefix_append _ _⟩
  | running p g _ hat => exact ⟨hat.facts.frame, hat.facts.response ▸ List.prefix_rfl⟩
  | failed p v st hv =>
    exact ⟨{ hv.frame with }, by rw [State.raise_response, hv.response]; exact List.prefix_append _ _⟩
  | done v hv =>
    exact ⟨{ hv.frame with }, by rw [← hv.response]; exact List.prefix_append _ _⟩

theorem AppendRun.bytes (h : AppendRun s w c t) (hm : MediumOk Config.params s) {x : Nat}
    (hslot : ¬ (x = s.cursor.toNat ∨ x = s.cursor.toNat + 1)) (hmeta : ¬ (100 ≤ x ∧ x ≤ 103)) :
    t.byte x = s.byte x := by
  have hout (q : Nat) : x ≠ (s.appendWrite w q).1 := appendWrite_outside hslot hmeta q
  cases h with
  | rejected => rfl
  | running p g _ hat => exact hat.facts.bytes.outside hm x fun q _ => hout q
  | failed p v st hv => exact hv.bytes.outside hm x fun q _ => hout q
  | done v hv => exact hv.bytes.outside hm x fun q _ => hout q

/-- Settles O39: the frame of every state along a run of APPEND. -/
theorem appendFrame : Obligations.AppendFrame := by
  intro s t level thread code hp hpow hm h
  have hrun := exec_append_run hp hpow h
  obtain ⟨hf, hresp⟩ := hrun.frame
  exact ⟨hf.mode, hf.i, hf.cnt0, hf.cur0, hf.requests, hf.inbox, hf.protect, hf.hold, hf.heldFrames, hresp,
    hf.exchanges, hf.answers, fun a => hrun.bytes hm⟩

/-! ## The state after a failure -/

/-- Windows of the first write store to the slot at CURSOR. -/
theorem appendWrite_payload {q : Nat} (hq : q ≤ 1) :
    (s.appendWrite w q).1 = s.cursor.toNat ∨ (s.appendWrite w q).1 = s.cursor.toNat + 1 := by
  match q, hq with
  | 0, _ => exact .inl rfl
  | 1, _ => exact .inr rfl

/-- Windows of the first two writes store to the slot at CURSOR, or to the count. -/
theorem appendWrite_newCount {q : Nat} (hq : q ≤ 3) :
    ((s.appendWrite w q).1 = s.cursor.toNat ∨ (s.appendWrite w q).1 = s.cursor.toNat + 1) ∨
    (s.appendWrite w q).1 = 100 ∨ (s.appendWrite w q).1 = 101 := by
  match q, hq with
  | 0, _ => exact .inl (.inl rfl)
  | 1, _ => exact .inl (.inr rfl)
  | 2, _ => exact .inr (.inl rfl)
  | 3, _ => exact .inr (.inr rfl)

/-- Settles O38: the window of the failure tells how many exchanges were made, which bytes are verified and which may
have changed. -/
theorem failedAppendLeavesTheStateOfR156 : Obligations.FailedAppendLeavesTheStateOfR156 := by
  intro s t level thread code hp hpow hfaith hm hready h hidle hne m w onSlot
  have hrun : AppendRun s w (.append level thread code) t := exec_append_run hp hpow h
  cases hrun with
  | rejected st hst =>
    have hzero : m = 0 := Nat.sub_self _
    have hlast : (s.response ++ [beat st true 0]).getLastD 0 = beat st true 0 := by simp
    refine ⟨rfl, rfl, by omega, ⟨st, hst, rfl⟩, fun _ => ?_, fun _ => ⟨rfl, fun _ _ => rfl⟩, by omega, by omega,
      by omega⟩
    exact congrArg s.answered hlast.symm
  | running p g _ hat => cases hidle.symm.trans hat.phase
  | done v hv => exact absurd (congrArg (· ++ [beat .ok true 0]) hv.response) hne
  | failed p v st hv hst hleast hmost =>
    have hwindow : 4 * p + 1 ≤ m ∧ m ≤ 4 * p + 4 := by
      have hlen : m = v.exchanges.length - s.exchanges.length := rfl
      omega
    have hp6 := hv.lt
    have hmode : s.mode = .boot := hv.frame.mode.symm.trans hv.regs.boot
    have hverified : ∀ q < p, v.byte (s.appendWrite w q).1 = (s.appendWrite w q).2 :=
      hv.bytes.verified ⟨hm, hready hmode, hfaith⟩
    have houtside := hv.bytes.outside hm
    have hcount := hv.regs.count
    refine ⟨hv.frame.mode, hv.regs.cursor, by omega, ⟨st, hst, congrArg (· ++ [beat st true 0]) hv.response⟩, by omega,
      fun hle => ⟨?_, fun a ha => ?_⟩, fun hlt => ⟨hverified 0 (by omega), hverified 1 (by omega)⟩,
      fun hlt hle => ⟨?_, fun a ha h100 h101 => ?_⟩, fun hlt => ?_⟩
    · exact hcount.trans (if_pos (by omega))
    · refine houtside a fun q hq heq => ha ?_
      rw [heq]
      exact appendWrite_payload (by omega)
    · exact hcount.trans (if_pos (by omega))
    · refine houtside a fun q hq heq => ?_
      obtain hslot | hmeta | hmeta := appendWrite_newCount (s := s) (w := w) (q := q) (by omega)
      · exact ha (heq ▸ hslot)
      · exact h100 (heq.trans hmeta)
      · exact h101 (heq.trans hmeta)
    · have hnew : v.count = saturatingCount Config.params s.count := hcount.trans (if_neg (by omega))
      refine ⟨hnew, ?_, ?_, fun a ha hmeta => houtside a fun q _ => appendWrite_outside ha hmeta q⟩
      · exact (hverified 2 (by omega)).trans (congrArg hiByte hnew.symm)
      · exact (hverified 3 (by omega)).trans (congrArg loByte hnew.symm)

/-! ## MODE -/

theorem defer_mode (s : State) (P : Params) (c : Instr) : (s.defer P c).mode = s.mode := by
  unfold State.defer
  split <;> rfl

/-- Settles O42: MODE is checked first, and neither a run of APPEND nor a reading command writes it. -/
theorem commandsBeforeInitAnswerUninitialized : Obligations.CommandsBeforeInitAnswerUninitialized := by
  intro s c hc hi
  refine ⟨exec_uninit hc hi, fun t hpow h => ?_⟩
  obtain hp | ⟨c', k, hp⟩ := phase_cases s
  · by_cases hread : IsRead c = true
    · obtain ⟨⟨i, p, x, r, as, es, rfl⟩, -⟩ := exec_read_keeps hread hp hpow h
      rfl
    · cases c with
      | append => exact (exec_append_run hp hpow h).frame.1.mode
      | init => exact absurd rfl hi
      | lastRecord | recordAt | traverseOldest | traverseNewest => exact absurd rfl hread
      | mediumWren | mediumWrdi | mediumRead | mediumWrite | mediumRdsr | mediumWrsr | mediumFastRead | mediumSleep
      | mediumRdid => cases hc
  · rw [exec_command hc] at h
    obtain ⟨-, -, -, rfl⟩ | ⟨hidle, -⟩ := launch_next h
    · exact defer_mode ..
    · cases hidle.symm.trans hp

end Sys2Proof.Machine
end

section
/-! INIT whatever its exchanges do short of a loss of power (R171, R174, R178): MODE is UNINIT from the first exchange on
until both values have been judged, and only the metadata values of R54 are written. -/

namespace Sys2Proof.Machine

variable {s t u v : State} {k : Position} {job : WriteJob} {g : GateStep} {x : Exchange}
  {o : TransportOutcome} {f : Fate} {addr : Word}

/-! ## What stands along a run -/

/-- What INIT leaves unchanged, and how it adds to the past of the transport channel. -/
structure InitKeeps (s u : State) : Prop where
  hi : u.hi = s.hi
  lo : u.lo = s.lo
  newCount : u.newCount = s.newCount
  newCursor : u.newCursor = s.newCursor
  i : u.i = s.i
  requests : u.requests = s.requests
  inbox : u.inbox = s.inbox
  protect : u.protect = s.protect
  hold : u.hold = s.hold
  heldFrames : u.heldFrames = s.heldFrames
  exchanges : s.exchanges <+: u.exchanges
  answers : u.answers <:+ s.answers
  wf : MediumOk Config.params s → Mem.wf Config.params.eraseValue u.mem = true
  outside : MediumOk Config.params s → ∀ x, ¬ (100 ≤ x ∧ x ≤ 103) →
    Mem.read Config.params.eraseValue u.mem x = s.byte x

/-- What stands until INIT commits (R174): MODE is UNINIT, and the registers of R22 and the beats are as before. -/
structure InitFacts (s u : State) : Prop extends InitKeeps s u where
  mode : u.mode = .uninit
  count : u.count = s.count
  cursor : u.cursor = s.cursor
  response : u.response = s.response

/-- `u` waits for the exchange of step `k` of INIT. -/
structure InitAt (s : State) (k : Position) (u : State) : Prop where
  facts : InitFacts s u
  ready : CommandReady Config.params .init k u
  phase : u.phase = .run .init k
  transport : ∃ x, exchangeAt Config.params .init k u = .ok x ∧ u.transport = some x

/-- Where a run of INIT can stand. -/
inductive InitRun (s : State) : State → Prop where
  /-- Before an exchange. -/
  | running (k : Position) (u : State) (h : InitAt s k u) : InitRun s u
  /-- Ended by a failure. -/
  | failed (u : State) (st : Status) (h : InitFacts s u) (hst : st ≠ .ok) : InitRun s (u.raise st)
  /-- Ended with both values judged or repaired. -/
  | booted (u : State) (h : InitFacts s u) (hn : LegalCount Config.params u.cnt0)
      (hc : LegalCursor Config.params u.cur0) : InitRun s (commitBootstrap u)

/-! ## The steps of R175 -/

theorem InitFacts.goTo (h : InitFacts s v) (hk : CommandReady Config.params .init k v)
    (ht : issue Config.params .init k v = .ok t) : InitRun s t := by
  obtain ⟨x, hx, rfl⟩ := issue_ok ht
  exact .running k _ ⟨{ h with }, (commandReady_channels _ _ v.response v.answers v.exchanges v.mem v.wel).mpr hk, rfl,
    x, (exchangeAt_channels _ _ v.response v.answers v.exchanges v.mem v.wel).trans hx, rfl⟩

/-- Beginning a repair. -/
theorem InitFacts.startRepair (h : InitFacts s v)
    (hk : CommandReady Config.params .init (.write job .wren) { v with j := 0 })
    (ht : startWrite Config.params .init job v = .ok t) : InitRun s t := by
  have hj : InitFacts s { v with j := 0 } := { h with }
  exact hj.goTo hk ht

theorem InitFacts.checkCursor (h : InitFacts s v) (hn : LegalCount Config.params v.cnt0)
    (ht : checkCursorValue Config.params v = .ok t) : InitRun s t := by
  unfold checkCursorValue at ht
  split at ht
  · next hc =>
    cases ht
    exact .booted v h hn hc
  · exact h.startRepair (job := .fixCursor) ⟨h.mode, .inl rfl, hn⟩ ht

theorem InitFacts.checkCount (h : InitFacts s v) (ht : checkCountValue Config.params v = .ok t) : InitRun s t := by
  unfold checkCountValue at ht
  split at ht
  · next hn => exact h.checkCursor hn ht
  · exact h.startRepair (job := .fixCount) ⟨h.mode, .inl rfl⟩ ht

/-- A repair that has verified leads on to the next check, or commits (R172, R173). -/
theorem InitFacts.afterRepair (h : InitFacts s v) (hk : CommandReady Config.params .init (.write job g) v)
    (ht : afterJob Config.params .init job v = .ok t) : InitRun s t := by
  cases job with
  | fixCount =>
    have hv : InitFacts s { v with cnt0 := 0 } := { h with }
    exact hv.checkCursor (Nat.zero_le _) ht
  | fixCursor =>
    have hv : InitFacts s { v with cur0 := BitVec.ofNat 16 Config.params.ringStart } := { h with }
    cases ht
    exact .booted _ hv hk.2.2 (show LegalCursor Config.params (BitVec.ofNat 16 Config.params.ringStart) by decide)
  | payload | newCount | newCursor => exact hk.2.elim

/-! ## One exchange -/

/-- What stands does so after an exchange that left the medium's content `m`. -/
theorem InitFacts.exchanged {m : Mem} (h : InitFacts s u)
    (hwf : MediumOk Config.params s → Mem.wf Config.params.eraseValue m = true)
    (hout : MediumOk Config.params s → ∀ x, ¬ (100 ≤ x ∧ x ≤ 103) →
      Mem.read Config.params.eraseValue m x = s.byte x) (w : Bool) (r : ExchangeRecord) :
    InitFacts s (u.exchanged u.answers m w [r]) :=
  { h with exchanges := h.exchanges.trans (List.prefix_append _ _), wf := hwf, outside := hout }

/-- A frame of a repair changes no byte outside the metadata values. -/
theorem InitFacts.afterFrame (h : InitFacts s u) (haddr : 100 ≤ addr.toNat ∧ addr.toNat ≤ 103)
    (hv : AfterFrame g addr u v) : InitFacts s v := by
  obtain ⟨m, w, r, rfl | ⟨-, d, rfl⟩, rfl⟩ := hv
  · exact h.exchanged h.wf h.outside w r
  · refine h.exchanged (fun hm => Mem.wf_write _ _ (h.wf hm)) (fun hm x hx => ?_) w r
    rw [Mem.read_write_other _ (h.wf hm) (by rintro rfl; exact hx haddr)]
    exact h.outside hm x hx

/-- A two-byte read changes nothing but the record before the block goes on. -/
theorem completeExchange_readTwo_ok {P : Params} {c : Instr} (hi : decodeFrame P x = .ok (.mediumRead addr 2))
    (htr : u.transport = some x) (h : completeExchange P c k (.returns o f) u = .ok t) :
    ∃ r rx, afterExchange P c k o.status rx (u.exchanged u.answers u.mem u.wel [r]) = .ok t := by
  obtain ⟨y, i, hy, hi', ⟨b, w, v, hb, -⟩ | ⟨o', f', rx, v, hb, hm, hafter⟩⟩ := completeExchange_ok h
  · cases hb
  · cases hb
    obtain rfl : y = x := Option.some.inj (hy.symm.trans htr)
    obtain rfl := Except.ok.inj (hi'.symm.trans hi)
    obtain ⟨rfl, -⟩ := mediumFrame_read_ok hm
    exact ⟨_, _, hafter⟩

/-- INIT after an exchange of one of its reads (R171). -/
theorem InitAt.afterRead (h : InitAt s k u) (hk : k = .readCount ∨ k = .readCursor)
    (ht : completeExchange Config.params .init k (.returns o f) u = .ok t) : InitRun s t := by
  obtain ⟨facts, -, -, x, hx, htr⟩ := h
  have hnote (r : ExchangeRecord) : InitFacts s (u.exchanged u.answers u.mem u.wel [r]) :=
    facts.exchanged facts.wf facts.outside u.wel r
  obtain rfl | rfl := hk
  · cases hx
    obtain ⟨r, rx, hafter⟩ := completeExchange_readTwo_ok (decodeFrame_readTwo _) htr ht
    obtain ⟨hst, rfl⟩ | ⟨-, b0, b1, -, hgot⟩ := afterRead2_ok hafter
    · exact .failed _ _ (hnote r) hst
    · have hv : InitFacts s { u.exchanged u.answers u.mem u.wel [r] with cnt0 := unmeta16 Config.params b0 b1 } :=
        { hnote r with }
      exact hv.goTo ⟨hv.mode, trivial⟩ hgot
  · cases hx
    obtain ⟨r, rx, hafter⟩ := completeExchange_readTwo_ok (decodeFrame_readTwo _) htr ht
    obtain ⟨hst, rfl⟩ | ⟨-, b0, b1, -, hgot⟩ := afterRead2_ok hafter
    · exact .failed _ _ (hnote r) hst
    · have hv : InitFacts s { u.exchanged u.answers u.mem u.wel [r] with cur0 := unmeta16 Config.params b0 b1 } :=
        { hnote r with }
      exact hv.checkCount hgot

/-- The repairs of INIT write to 100..103. -/
theorem jobTarget_repair (h : CommandReady Config.params .init (.write job g) u) :
    ∃ a b0 b1, jobTarget Config.params job u = .ok (a, b0, b1) ∧
      100 ≤ (BitVec.ofNat 16 (a + u.j.toNat) : Word).toNat ∧ (BitVec.ofNat 16 (a + u.j.toNat) : Word).toNat ≤ 103 := by
  obtain ⟨hj, ⟨-, -, rfl | ⟨rfl, -⟩⟩ | ⟨⟨_, _, _, hc⟩, -⟩⟩ := commandReady_write h
  · exact ⟨_, _, _, rfl, by obtain hj | hj := hj <;> rw [hj] <;> decide⟩
  · exact ⟨_, _, _, rfl, by obtain hj | hj := hj <;> rw [hj] <;> decide⟩
  · cases hc

/-- INIT after an exchange of one of its repairs (R111-R113, R131-R133). -/
theorem InitAt.afterWrite (h : InitAt s (.write job g) u)
    (ht : completeExchange Config.params .init (.write job g) (.returns o f) u = .ok t) : InitRun s t := by
  obtain ⟨facts, ready, -, x, hx, htr⟩ := h
  obtain ⟨a, b0, b1, hjob, haddr⟩ := jobTarget_repair ready
  obtain ⟨v, hv, hstep⟩ := completeExchange_write_ok hjob hx htr ht
  have hfacts := facts.afterFrame haddr hv
  have hready : CommandReady Config.params .init (.write job g) v := by
    obtain ⟨m, w, r, -, rfl⟩ := hv
    exact (commandReady_channels u.phase none u.response u.answers _ m w).mpr ready
  have hrb (b' : Byte) : InitFacts s { v with rb := b' } := { hfacts with }
  cases hstep with
  | goesOn hn hgo => exact hfacts.goTo (commandReady_gate hready) hgo
  | fails hst hend => exact hend ▸ .failed _ _ (hrb _) hst
  | nextByte hg hread hj hgo =>
    have hnext : InitFacts s { v with rb := byteAt u.j b0 b1, j := 1 } := { hfacts with }
    exact hnext.goTo (commandReady_secondByte _ hready) hgo
  | pastWrite hg hread hj hgo => exact (hrb _).afterRepair (commandReady_rb _ hready) hgo

/-- Every exchange of INIT that returns leads on along a run. -/
theorem completeExchange_initRun (h : InitAt s k u)
    (ht : completeExchange Config.params .init k (.returns o f) u = .ok t) : InitRun s t := by
  cases k with
  | start => exact (not_commandReady_start h.ready).elim
  | readCount => exact h.afterRead (.inl rfl) ht
  | readCursor => exact h.afterRead (.inr rfl) ht
  | write job g => exact h.afterWrite ht
  | readRecord => exact h.ready.2.elim

/-! ## Every INIT is such a run -/

theorem InitAt.nextAnswer {b : Answer} {rest : List Answer} (h : InitAt s k u) (hb : u.answers = b :: rest) :
    InitAt s k { u with answers := rest } := by
  obtain ⟨facts, ready, hphase, x, hx, htr⟩ := h
  have hanswers : rest <:+ s.answers := (List.suffix_cons b rest).trans (hb ▸ facts.answers)
  exact ⟨{ facts with answers := hanswers },
    (commandReady_channels u.phase u.transport u.response rest u.exchanges u.mem u.wel).mpr ready, hphase,
    x, (exchangeAt_channels u.phase u.transport u.response rest u.exchanges u.mem u.wel).trans hx, htr⟩

/-- INIT begins with its first read, in UNINIT (R178). -/
theorem startInit_initRun (h : startInit Config.params (s.accept .init) = .ok u) : InitRun s u := by
  have hv : InitFacts s { s.accept .init with mode := .uninit } :=
    { hi := rfl, lo := rfl, newCount := rfl, newCursor := rfl, i := rfl, requests := rfl, inbox := rfl
      protect := rfl, hold := rfl, heldFrames := rfl, exchanges := List.prefix_rfl, answers := List.suffix_rfl
      wf := fun hm => hm.1, outside := fun _ _ _ => rfl, mode := rfl, count := rfl, cursor := rfl, response := rfl }
  exact hv.goTo (k := .readCount) ⟨rfl, trivial⟩ h

/-- An INIT of an idle block without a loss of power, ended or waiting. -/
theorem exec_init_run (hp : s.phase = .idle) (hpow : s.powered = true) (h : exec .init s = .next t) : InitRun s t := by
  obtain ⟨u, hu, hrun⟩ := exec_idle_next rfl hp h
  refine runAnswers_keeps (Q := InitRun s) ?_ (beginCommand_keeps hu).answers (startInit_initRun hu) hrun
  intro c' k b rest v v' hv hrunning hb hx
  cases hv with
  | failed | booted => cases hrunning
  | running k _ hat =>
    obtain ⟨rfl, rfl⟩ := Phase.run.inj (hrunning.symm.trans hat.phase)
    obtain ⟨o, f, rfl⟩ := powered_answer (hb ▸ hat.facts.answers) hpow
    exact completeExchange_initRun (hat.nextAnswer hb) hx

/-! ## The statements -/

/-- Settles O33: a run of INIT that has ended has failed in UNINIT, or committed two legal values. -/
theorem initEndsBootedOrUninitialized : Obligations.InitEndsBootedOrUninitialized := by
  intro s t hp hpow h hidle
  cases exec_init_run hp hpow h with
  | running k _ hat => cases hidle.symm.trans hat.phase
  | failed u st hu hst =>
    have hmode : (u.raise st).mode = .uninit := hu.mode
    exact .inr ⟨hmode, ⟨st, hst, congrArg (· ++ [beat st true 0]) hu.response⟩, by simp only [readCount, hmode],
      by simp only [readCursor, hmode]⟩
  | booted u hu hn hc => exact .inl ⟨rfl, congrArg (· ++ [beat .ok true 0]) hu.response, hn, hc⟩

/-- The frame of every state along a run of INIT. -/
theorem InitRun.keeps (h : InitRun s t) : InitKeeps s t ∧ s.response <+: t.response := by
  cases h with
  | running k _ hat => exact ⟨hat.facts.toInitKeeps, hat.facts.response ▸ List.prefix_rfl⟩
  | failed u st hu => exact ⟨{ hu with }, hu.response ▸ List.prefix_append _ _⟩
  | booted u hu => exact ⟨{ hu with }, hu.response ▸ List.prefix_append _ _⟩

/-- The registers of R22 are written by the commit alone (R174). -/
theorem InitRun.cached (h : InitRun s t) (hm : t.mode = .uninit) : t.count = s.count ∧ t.cursor = s.cursor := by
  cases h with
  | running k _ hat => exact ⟨hat.facts.count, hat.facts.cursor⟩
  | failed u st hu => exact ⟨hu.count, hu.cursor⟩
  | booted => cases hm

/-- Settles O34: what stands along a run of INIT. -/
theorem initFrame : Obligations.InitFrame := by
  intro s t hp hpow hm h
  have hrun := exec_init_run hp hpow h
  obtain ⟨hk, hresp⟩ := hrun.keeps
  exact ⟨hk.hi, hk.lo, hk.newCount, hk.newCursor, hk.i, hk.requests, hk.inbox, hk.protect, hk.hold, hk.heldFrames,
    hrun.cached, hresp, hk.exchanges, hk.answers, hk.outside hm⟩

end Sys2Proof.Machine
end

section
/-! INIT when no exchange fails (R171-R173): two reads, then the repairs of the values that are not legal, each judged
alone, and the registers and bytes they leave. -/

namespace Sys2Proof.Machine

variable {s t u v : State} {rest : List Answer} {k : Position} {a : Nat} {ok : Bool}

/-! ## The two reads -/

theorem mediumFrame_readTwoDone {addr : Word} (h : addr.toNat + 2 ≤ 32768) (s : State) :
    mediumFrame Config.params (.mediumRead addr 2) .done s =
      .ok ([s.byte addr.toNat, s.byte (addr.toNat + 1)], s) := by
  have hread : mediumReadAt Config.params addr 2 .done s =
      .ok (Mem.readBytes Config.params.eraseValue s.mem addr.toNat 2) := if_pos h
  simp only [mediumFrame, hread, Mem.readBytes_two, State.byte]

/-- `s` with INIT at step `k`, its read of the metadata value at `a`. -/
def State.atMetaRead (s : State) (k : Position) (a : Nat) : State :=
  { s with phase := .run .init k, transport := some (readFrame Config.params (BitVec.ofNat 16 a) 2) }

/-- A good read is recorded and brings the medium's bytes (R66, R130); the sequencer then goes on to `t`. -/
theorem runAnswers_goodMetaRead (ha : a + 2 ≤ 32768)
    (hafter : afterExchange Config.params .init k .ok [s.byte a, s.byte (a + 1)]
      { s.exchanged rest s.mem s.wel [readRecordOf Config.params s a] with phase := .run .init k } = .ok t) :
    runAnswers Config.params (Answer.good :: rest) (s.atMetaRead k a) = runAnswers Config.params rest t := by
  have haddr : (BitVec.ofNat 16 a : Word).toNat = a := by rw [BitVec.toNat_ofNat]; omega
  have hframe := mediumFrame_readTwoDone (addr := BitVec.ofNat 16 a) (by omega)
    { s.atMetaRead k a with answers := rest }
  rw [haddr] at hframe
  have hdone : completeExchange Config.params .init k Answer.good { s.atMetaRead k a with answers := rest } = .ok t :=
    (completeExchange_returns rfl (decodeFrame_readTwo _) hframe).trans hafter
  rw [runAnswers_cons rfl, hdone]

/-- `s` after the two good reads of INIT. -/
def State.loaded (s : State) (rest : List Answer) : State :=
  { s with
    mode := .uninit, phase := .run .init .readCursor, cnt0 := s.metaValue 100, cur0 := s.metaValue 102
    transport := none, answers := rest
    exchanges := s.exchanges ++ [readRecordOf Config.params s 100, readRecordOf Config.params s 102] }

/-- INIT with two good answers comes to the check of the counter (R172). -/
theorem exec_init_loaded (hp : s.phase = .idle) (has : s.answers = goodThen 2 rest)
    (h : checkCountValue Config.params (s.loaded rest) = .ok u) :
    exec .init s = outcomeOf (runAnswers Config.params rest u) := by
  let v0 : State := { s.accept .init with mode := .uninit }
  let v1 : State :=
    { v0.exchanged (goodThen 1 rest) s.mem s.wel [readRecordOf Config.params s 100] with cnt0 := s.metaValue 100 }
  have hstart : beginCommand Config.params .init (s.accept .init) = .ok (v0.atMetaRead .readCount 100) := rfl
  have hloaded : { v1.exchanged rest s.mem s.wel [readRecordOf Config.params s 102] with
      phase := .run .init .readCursor, cur0 := s.metaValue 102 } = s.loaded rest := by
    simp only [v1, v0, State.exchanged, List.append_assoc, State.loaded]
    rfl
  have hcount : runAnswers Config.params (goodThen 2 rest) (v0.atMetaRead .readCount 100) =
      runAnswers Config.params (goodThen 1 rest) (v1.atMetaRead .readCursor 102) :=
    runAnswers_goodMetaRead (rest := goodThen 1 rest) (s := v0) (by decide) rfl
  have hcursor : runAnswers Config.params (goodThen 1 rest) (v1.atMetaRead .readCursor 102) =
      runAnswers Config.params rest u :=
    runAnswers_goodMetaRead (s := v1) (by decide) ((congrArg (checkCountValue Config.params) hloaded).trans h)
  rw [exec_of_begin rfl hp hstart, has, hcount, hcursor]

/-! ## The two repairs -/

/-- `v` as it is if its value is legal, else after the good write of `b0` and `b1` at `a`. -/
def State.repaired (v : State) (ok : Bool) (job : WriteJob) (a : Nat) (b0 b1 : Byte) (rest : List Answer) : State :=
  { v with
    phase := if ok then v.phase else .run .init (.write job .readBack)
    transport := if ok then v.transport else none
    rb := if ok then v.rb else b1
    j := if ok then v.j else 1
    answers := rest
    mem := if ok then v.mem else v.mem.writePair a b0 b1
    wel := if ok then v.wel else false
    exchanges := v.exchanges ++ if ok then [] else writeVerifyRecord Config.params (BitVec.ofNat 16 a) b0 b1 }

theorem byte_repaired (job : WriteJob) (b0 b1 : Byte) (h : Mem.wf Config.params.eraseValue v.mem = true) (x : Nat) :
    (v.repaired ok job a b0 b1 rest).byte x =
      if ok = false ∧ x = a then b0 else if ok = false ∧ x = a + 1 then b1 else v.byte x := by
  cases ok with
  | true => simp [State.repaired, State.byte]
  | false => simpa [State.repaired, State.byte] using Mem.read_writePair a b0 b1 h x

/-- `v` past the check of the counter (R172). -/
def State.countChecked (v : State) (ok : Bool) (rest : List Answer) : State :=
  { v.repaired ok .fixCount 100 0x00 0x00 rest with cnt0 := if ok then v.cnt0 else 0 }

/-- `v` past the check of the cursor (R173). -/
def State.cursorChecked (v : State) (ok : Bool) (rest : List Answer) : State :=
  { v.repaired ok .fixCursor 102 0x00 0xC8 rest with cur0 := if ok then v.cur0 else 200 }

theorem byte_countChecked (h : Mem.wf Config.params.eraseValue v.mem = true) (x : Nat) :
    (v.countChecked ok rest).byte x =
      if ok = false ∧ x = 100 then 0x00 else if ok = false ∧ x = 101 then 0x00 else v.byte x :=
  byte_repaired (rest := rest) .fixCount 0x00 0x00 h x

theorem byte_cursorChecked (h : Mem.wf Config.params.eraseValue v.mem = true) (x : Nat) :
    (v.cursorChecked ok rest).byte x =
      if ok = false ∧ x = 102 then 0x00 else if ok = false ∧ x = 103 then 0xC8 else v.byte x :=
  byte_repaired (rest := rest) .fixCursor 0x00 0xC8 h x

theorem wf_countChecked (h : Mem.wf Config.params.eraseValue v.mem = true) :
    Mem.wf Config.params.eraseValue (v.countChecked ok rest).mem = true := by
  cases ok with
  | true => exact h
  | false => exact Mem.wf_writePair _ _ _ h

theorem countChecked_legal (has : v.answers = rest) : v.countChecked true rest = v := by
  subst has
  simp only [State.countChecked, State.repaired, if_true, List.append_nil]

theorem cursorChecked_legal (has : v.answers = rest) : v.cursorChecked true rest = v := by
  subst has
  simp only [State.cursorChecked, State.repaired, if_true, List.append_nil]

/-- The answers that the check of a value meets when no exchange fails: none, or those of a repair. -/
def repairAnswers (ok : Bool) (rest : List Answer) : List Answer := goodThen (if ok then 0 else 8) rest

/-- The cursor is kept or repaired, and INIT commits (R173, R174). -/
theorem checkCursorValue_good (hprot : v.protect = false) (hwf : Mem.wf Config.params.eraseValue v.mem = true)
    (hok : ok = true ↔ LegalCursor Config.params v.cur0) (has : v.answers = repairAnswers ok rest) :
    ∃ u, checkCursorValue Config.params v = .ok u ∧
      runAnswers Config.params v.answers u = .ok (commitBootstrap (v.cursorChecked ok rest)) := by
  cases ok with
  | true =>
    rw [cursorChecked_legal (rest := rest) has]
    exact ⟨commitBootstrap v, if_pos (hok.mp rfl), runAnswers_idle rfl⟩
  | false =>
    have hbad : ¬ LegalCursor Config.params v.cur0 := fun h => Bool.noConfusion (hok.mpr h)
    let w : State := { v with j := 0 }
    have hjob : jobTarget Config.params .fixCursor v = .ok (102, 0x00, 0xC8) := rfl
    have hnext : afterJob Config.params .init .fixCursor (w.written .init .fixCursor 102 0x00 0xC8 rest) =
        .ok (commitBootstrap (v.cursorChecked false rest)) := rfl
    refine ⟨w.atWren .init .fixCursor, (if_neg hbad).trans (startWrite_of_jobTarget hjob), ?_⟩
    rw [has]
    exact (runAnswers_goodWriteVerify (s := w) hjob (by decide) rfl hprot hwf hnext).trans (runAnswers_idle rfl)

/-- The counter is kept or repaired, and the check of the cursor follows (R172). -/
theorem checkCountValue_good {cursorOk : Bool} (hprot : v.protect = false)
    (hwf : Mem.wf Config.params.eraseValue v.mem = true) (hok : ok = true ↔ LegalCount Config.params v.cnt0)
    (hcursor : cursorOk = true ↔ LegalCursor Config.params v.cur0)
    (has : v.answers = repairAnswers ok (repairAnswers cursorOk rest)) :
    ∃ u, checkCountValue Config.params v = .ok u ∧ runAnswers Config.params v.answers u =
      .ok (commitBootstrap ((v.countChecked ok (repairAnswers cursorOk rest)).cursorChecked cursorOk rest)) := by
  obtain ⟨u, hu, hrun⟩ := checkCursorValue_good (v := v.countChecked ok (repairAnswers cursorOk rest)) (rest := rest)
    hprot (wf_countChecked hwf) hcursor rfl
  cases ok with
  | true =>
    rw [countChecked_legal (rest := repairAnswers cursorOk rest) has] at hu hrun ⊢
    exact ⟨u, (if_pos (hok.mp rfl)).trans hu, hrun⟩
  | false =>
    have hbad : ¬ LegalCount Config.params v.cnt0 := fun h => Bool.noConfusion (hok.mpr h)
    let w : State := { v with j := 0 }
    have hjob : jobTarget Config.params .fixCount v = .ok (100, 0x00, 0x00) := rfl
    have hnext : afterJob Config.params .init .fixCount
        (w.written .init .fixCount 100 0x00 0x00 (repairAnswers cursorOk rest)) = .ok u := hu
    refine ⟨w.atWren .init .fixCount, (if_neg hbad).trans (startWrite_of_jobTarget hjob), ?_⟩
    rw [has]
    exact (runAnswers_goodWriteVerify (s := w) hjob (by decide) rfl hprot hwf hnext).trans hrun

/-! ## The statements -/

/-- The counter on the medium is legal (R172). -/
def State.countOk (s : State) : Bool := decide ((s.metaValue 100).toNat ≤ 16283)

/-- The cursor on the medium is legal (R173). -/
def State.cursorOk (s : State) : Bool :=
  decide (200 ≤ (s.metaValue 102).toNat ∧ (s.metaValue 102).toNat ≤ 32764 ∧ (s.metaValue 102).toNat % 2 = 0)

/-- `s` after an INIT in which no exchange failed. -/
def State.bootstrapped (s : State) (rest : List Answer) : State :=
  let cursorAnswers := repairAnswers s.cursorOk rest
  commitBootstrap (((s.loaded (repairAnswers s.countOk cursorAnswers)).countChecked s.countOk
    cursorAnswers).cursorChecked s.cursorOk rest)

/-- INIT with as many good answers as the metadata needs (R171). -/
theorem exec_init_good (hp : s.phase = .idle) (hprot : s.protect = false) (hm : MediumOk Config.params s)
    (has : s.answers = goodThen (2 + (if s.countOk then 0 else 8) + (if s.cursorOk then 0 else 8)) rest) :
    exec .init s = .next (s.bootstrapped rest) := by
  rw [goodThen_add, goodThen_add] at has
  have hcount : s.countOk = true ↔ LegalCount Config.params (s.metaValue 100) := decide_eq_true_iff
  have hcursor : s.cursorOk = true ↔ LegalCursor Config.params (s.metaValue 102) :=
    decide_eq_true_iff.trans validSlot_default.symm
  obtain ⟨u, hu, hrun⟩ := checkCountValue_good
    (v := s.loaded (repairAnswers s.countOk (repairAnswers s.cursorOk rest))) hprot hm.1 hcount hcursor rfl
  exact (exec_init_loaded hp has hu).trans (congrArg outcomeOf hrun)

/-- The bytes after INIT: the repaired values, and the others as they were. -/
theorem byte_bootstrapped (hm : MediumOk Config.params s) (x : Nat) :
    (s.bootstrapped rest).byte x =
      if s.countOk = false ∧ (x = 100 ∨ x = 101) then 0x00
      else if s.cursorOk = false ∧ x = 102 then 0x00
      else if s.cursorOk = false ∧ x = 103 then 0xC8
      else s.byte x := by
  let cursorAnswers := repairAnswers s.cursorOk rest
  let v := s.loaded (repairAnswers s.countOk cursorAnswers)
  have hcommit : (s.bootstrapped rest).byte x =
      ((v.countChecked s.countOk cursorAnswers).cursorChecked s.cursorOk rest).byte x := rfl
  have hwf : Mem.wf Config.params.eraseValue v.mem = true := hm.1
  have hloaded : v.byte x = s.byte x := rfl
  rw [hcommit, byte_cursorChecked (wf_countChecked hwf), byte_countChecked hwf, hloaded]
  grind

theorem count_bootstrapped (s : State) (rest : List Answer) :
    (s.bootstrapped rest).count = if s.countOk then s.metaValue 100 else 0 := rfl

theorem cursor_bootstrapped (s : State) (rest : List Answer) :
    (s.bootstrapped rest).cursor = if s.cursorOk then s.metaValue 102 else 200 := rfl

/-- Settles O31: two good reads, the repairs of the illegal values, and the commit. -/
theorem initLoadsAndRepairs : Obligations.InitLoadsAndRepairs := by
  intro s rest hp hprot hm n0 u0 countOk cursorOk has
  exact ⟨s.bootstrapped rest, exec_init_good hp hprot hm has, rfl, rfl, rfl, rfl, rfl, rfl, rfl, rfl,
    byte_bootstrapped hm, rfl, rfl, rfl, rfl, rfl, rfl, rfl, rfl, rfl, rfl⟩

/-- Two equal bytes read as `257 * E` (R176). -/
theorem metaValue_uniform {E : Byte} (h0 : s.byte a = E) (h1 : s.byte (a + 1) = E) :
    (s.metaValue a).toNat = 257 * E.toNat := by
  have hvalue : s.metaValue a = E ++ E := by rw [State.metaValue, h0, h1]; rfl
  rw [hvalue, word_toNat_append]
  omega

/-- The counters `257 * e` up to CAPACITY. -/
theorem uniformCount_legal_iff (e : Nat) : 257 * e ≤ 16283 ↔ e ≤ 0x3F := by omega

/-- The cursors `257 * e` that are `Valid` (R144): the address is as even as `e`. -/
theorem uniformCursor_legal_iff (e : Nat) :
    200 ≤ 257 * e ∧ 257 * e ≤ 32764 ∧ 257 * e % 2 = 0 ↔ e % 2 = 0 ∧ 0x02 ≤ e ∧ e ≤ 0x7E := by
  have heven : 257 * e % 2 = e % 2 := by omega
  have hhigh : 257 * e ≤ 32764 ↔ e ≤ 0x7F := by omega
  have hlow : 200 ≤ 257 * e ↔ 1 ≤ e := by omega
  rw [heven, hhigh, hlow]
  omega

/-- The bytes for which the ring comes up empty at RING_START (R176). -/
theorem uniform_empty_iff (e : Nat) :
    (if e ≤ 0x3F then 257 * e else 0) = 0 ∧ (if e % 2 = 0 ∧ 0x02 ≤ e ∧ e ≤ 0x7E then 257 * e else 200) = 200 ↔
      e = 0 ∨ (e % 2 = 1 ∧ 0x41 ≤ e) ∨ 0x80 ≤ e := by
  split <;> split <;> omega

/-- Settles O32: both values read as `257 * E`, and what INIT keeps of them is legal. -/
theorem selfHealOfAUniformMedium : Obligations.SelfHealOfAUniformMedium := by
  intro s E rest hp hprot hm h100 h101 h102 h103 has
  have hn := metaValue_uniform h100 h101
  have hu := metaValue_uniform h102 h103
  let needed := 2 + (if s.countOk then 0 else 8) + (if s.cursorOk then 0 else 8)
  have hneeded : 18 = needed + (18 - needed) := by
    simp only [needed]
    split <;> split <;> rfl
  rw [hneeded, goodThen_add] at has
  have hcount : (s.bootstrapped (goodThen (18 - needed) rest)).count.toNat =
      if E.toNat ≤ 0x3F then 257 * E.toNat else 0 := by
    simp only [count_bootstrapped, State.countOk, decide_eq_true_eq, apply_ite BitVec.toNat, hn,
      uniformCount_legal_iff]
    rfl
  have hcursor : (s.bootstrapped (goodThen (18 - needed) rest)).cursor.toNat =
      if E.toNat % 2 = 0 ∧ 0x02 ≤ E.toNat ∧ E.toNat ≤ 0x7E then 257 * E.toNat else 200 := by
    simp only [cursor_bootstrapped, State.cursorOk, decide_eq_true_eq, apply_ite BitVec.toNat, hu,
      uniformCursor_legal_iff]
    rfl
  refine ⟨_, exec_init_good hp hprot hm has, rfl, hcount, hcursor, ?_⟩
  rw [← BitVec.toNat_inj, ← BitVec.toNat_inj, hcount, hcursor]
  exact uniform_empty_iff E.toNat

end Sys2Proof.Machine
end

section
/-! The two traversals (R190-R192, R194): one visit per index in the command's order, each a record read and its beat, for
as long as the exchanges are good; then the final beat, after the last visit or at the first read that fails. -/

namespace Sys2Proof.Machine

variable {P : Params} {c : Instr} {s t u : State} {k : Nat} {rest as : List Answer}

/-! ## The order of the visits -/

/-- The two streaming commands (R190, R191). -/
def IsTraversal (c : Instr) : Prop := c = .traverseOldest ∨ c = .traverseNewest

theorem isCommand_of_isTraversal (hc : IsTraversal c) : IsCommand c = true := by
  obtain rfl | rfl := hc <;> rfl

/-- The logical index that traversal `c` visits after `k` others: from COUNT down in TRAVERSE_NEWEST (R191), from 1 up in
TRAVERSE_OLDEST (R190), the only other command it is used for. -/
def State.visitIndex (s : State) (c : Instr) (k : Nat) : Nat :=
  match c with
  | .traverseNewest => s.count.toNat - k
  | _ => k + 1

/-- The slot of that index. -/
def State.visitSlot (s : State) (c : Instr) (k : Nat) : Nat := s.slotOf (s.visitIndex c k)

/-- The slots of the first `k` visits. -/
def State.visitSlots (s : State) (c : Instr) (k : Nat) : List Nat := (List.range k).map (s.visitSlot c)

theorem visitSlots_succ (s : State) (c : Instr) (k : Nat) :
    s.visitSlots c (k + 1) = s.visitSlots c k ++ [s.visitSlot c k] := by
  simp only [State.visitSlots, List.range_succ, List.map_append, List.map_singleton]

/-- TRAVERSE_NEWEST visits all slots in the reverse of the order of TRAVERSE_OLDEST (R194). -/
theorem visitSlots_newest (s : State) :
    s.visitSlots .traverseNewest s.count.toNat = (s.visitSlots .traverseOldest s.count.toNat).reverse := by
  refine List.ext_getElem (by simp [State.visitSlots]) fun k hk _ => ?_
  have hlt : k < s.count.toNat := by simpa [State.visitSlots] using hk
  have hindex : s.count.toNat - k = s.count.toNat - 1 - k + 1 := by omega
  simp [State.visitSlots, State.visitSlot, State.visitIndex, hindex]

/-! ## The loop register -/

/-- `u` with `I` at the index of visit `k`. -/
def State.indexed (u : State) (c : Instr) (k : Nat) : State := { u with i := BitVec.ofNat 16 (u.visitIndex c k) }

/-- `u` with traversal `c` at the read of visit `k`. -/
def State.visiting (u : State) (c : Instr) (k : Nat) : State := (u.indexed c k).readingAt c (u.visitSlot c k)

/-- No index of `1 .. COUNT` is too large for `I`. -/
theorem indexed_i_toNat (hk : k < u.count.toNat) : (u.indexed c k).i.toNat = u.visitIndex c k := by
  have hn := u.count.isLt
  refine Nat.mod_eq_of_lt ?_
  unfold State.visitIndex
  split <;> omega

/-- The loop of TRAVERSE_OLDEST counts up (R190). -/
theorem indexed_oldest_succ (u : State) (k : Nat) :
    (u.indexed .traverseOldest k).i + 1 = (u.indexed .traverseOldest (k + 1)).i := by
  simp only [State.indexed, State.visitIndex, BitVec.ofNat_add]
  rfl

/-- The loop of TRAVERSE_NEWEST counts down (R191). -/
theorem indexed_newest_succ (hk : k + 1 < u.count.toNat) :
    (u.indexed .traverseNewest k).i - 1 = (u.indexed .traverseNewest (k + 1)).i := by
  have hi := indexed_i_toNat (c := .traverseNewest) (u := u) (k := k) (by omega)
  have hi' := indexed_i_toNat (c := .traverseNewest) hk
  simp only [State.visitIndex] at hi hi'
  bv_omega

/-- Going to visit `k` reads its slot (R145). -/
theorem issue_visit (hc : IsTraversal c) (hr : RingReady Config.params u) (hk : k < u.count.toNat) :
    issue Config.params c .readRecord (u.indexed c k) = .ok (u.visiting c k) := by
  have haddr : logicalAddr Config.params (u.indexed c k).i (u.indexed c k) = .ok (u.visitSlot c k) := by
    rw [logicalAddr_ready (s := u.indexed c k) hr, indexed_i_toNat hk]
    rfl
  obtain rfl | rfl := hc <;> exact issue_readRecord haddr

/-! ## Where a traversal begins -/

/-- An empty ring has no visit (R193). -/
theorem beginTraversal_empty (hc : IsTraversal c) (hm : s.mode = .boot) (hn : s.count = 0) :
    beginCommand P c s = .ok (s.finish .ok 0) := by
  obtain rfl | rfl := hc
  · simp only [beginCommand, startTraverseOldest, checkMode_boot hm, readCount_boot hm, if_pos hn]
  · simp only [beginCommand, startTraverseNewest, checkMode_boot hm, readCount_boot hm, if_pos hn]

/-- A ring with records: the loop starts at its first visit (R190, R191). -/
theorem beginTraversal (hc : IsTraversal c) (hr : RingReady Config.params s) (hn : s.count ≠ 0) :
    beginCommand Config.params c s = .ok (s.visiting c 0) := by
  have hvisit := issue_visit hc hr (one_le_toNat hn)
  obtain rfl | rfl := hc
  · simp only [beginCommand, startTraverseOldest, checkMode_boot hr.1, readCount_boot hr.1, if_neg hn]
    exact hvisit
  · have hfirst : s.indexed .traverseNewest 0 = { s with i := s.count } := by
      simp only [State.indexed, State.visitIndex, Nat.sub_zero, BitVec.ofNat_toNat, BitVec.setWidth_eq]
    simp only [beginCommand, startTraverseNewest, checkMode_boot hr.1, readCount_boot hr.1, if_neg hn]
    rwa [hfirst] at hvisit

/-! ## One visit -/

/-- The record of visit `k` is sent, and the loop goes on while there is another index. -/
theorem afterRecord_next (hc : IsTraversal c) (hr : RingReady Config.params u) (hk : k + 1 < u.count.toNat)
    (b0 b1 : Byte) :
    afterRecord Config.params c b0 b1 (u.indexed c k) =
      .ok ((u.emit (beat .ok false (b0 ++ b1))).visiting c (k + 1)) := by
  have hi := indexed_i_toNat (c := c) (u := u) (k := k) (by omega)
  have hvisit := issue_visit (u := u.emit (beat .ok false (b0 ++ b1))) hc hr hk
  have hword : decodedRecord b0 b1 = b0 ++ b1 := recordWord_dec b0 b1
  obtain rfl | rfl := hc
  · have hlt : (u.indexed .traverseOldest k).i.toNat < (u.indexed .traverseOldest k).count.toNat := hi.trans_lt hk
    simp only [afterRecord, gotOldest, readCount_boot (s := u.indexed .traverseOldest k) hr.1, if_pos hlt,
      indexed_oldest_succ, hword]
    exact hvisit
  · have hlt : 1 < (u.indexed .traverseNewest k).i.toNat := by
      simp only [hi, State.visitIndex]
      omega
    simp only [afterRecord, gotNewest, if_pos hlt, indexed_newest_succ hk, hword]
    exact hvisit

/-- The record of the last visit is sent, and the final beat after it. -/
theorem afterRecord_last (hc : IsTraversal c) (hm : u.mode = .boot) (hk : k + 1 = u.count.toNat) (b0 b1 : Byte) :
    afterRecord P c b0 b1 (u.indexed c k) =
      .ok (((u.indexed c k).emit (beat .ok false (b0 ++ b1))).finish .ok 0) := by
  have hi := indexed_i_toNat (c := c) (u := u) (k := k) (by omega)
  have hword : decodedRecord b0 b1 = b0 ++ b1 := recordWord_dec b0 b1
  obtain rfl | rfl := hc
  · have hge : ¬ (u.indexed .traverseOldest k).i.toNat < (u.indexed .traverseOldest k).count.toNat :=
      (hi.trans hk).not_lt
    simp only [afterRecord, gotOldest, readCount_boot (s := u.indexed .traverseOldest k) hm, if_neg hge, hword]
  · have hge : ¬ 1 < (u.indexed .traverseNewest k).i.toNat := by
      simp only [hi, State.visitIndex]
      omega
    simp only [afterRecord, gotNewest, if_neg hge, hword]

/-- `s` after the first `k` visits of traversal `c` in which nothing fails: their beats, their reads. -/
def State.visited (s : State) (c : Instr) (k : Nat) (rest : List Answer) : State :=
  { s with
    answers := rest
    response := s.response ++ (s.visitSlots c k).map fun a => beat .ok false (s.slotWord a)
    exchanges := s.exchanges ++ (s.visitSlots c k).map fun a => readRecordOf Config.params s a }

theorem visited_zero (has : s.answers = as) : s.visited c 0 as = s := by
  subst has
  simp only [State.visited, State.visitSlots, List.range_zero, List.map_nil, List.append_nil]

/-- A visit adds its beat and its read. -/
theorem visited_succ (s : State) (c : Instr) (k : Nat) (rest : List Answer) :
    s.visited c (k + 1) rest =
      { (s.visited c k rest).emit (beat .ok false (s.slotWord (s.visitSlot c k))) with
        exchanges := (s.visited c k rest).exchanges ++ [readRecordOf Config.params s (s.visitSlot c k)] } := by
  simp only [State.visited, visitSlots_succ, List.map_append, List.map_singleton, ← List.append_assoc]
  rfl

/-- `u` once the slot at `a` has been read for traversal `c`. -/
def State.slotRead (u : State) (c : Instr) (a : Nat) (rest : List Answer) : State :=
  { u with
    phase := .run c .readRecord, transport := none, answers := rest
    exchanges := u.exchanges ++ [readRecordOf Config.params u a] }

/-- A visit in which nothing fails is recorded and brings the slot's two bytes; the sequencer then goes on to `t`. -/
theorem runAnswers_goodVisit (hr : RingReady Config.params u)
    (hafter : afterRecord Config.params c (u.byte (u.visitSlot c k)) (u.byte (u.visitSlot c k + 1))
      ((u.slotRead c (u.visitSlot c k) rest).indexed c k) = .ok t) :
    runAnswers Config.params (Answer.good :: rest) (u.visiting c k) = runAnswers Config.params rest t := by
  have hread := mediumReadAt_slotDone (slotOf_valid hr (u.visitIndex c k)) (u.indexed c k)
  have hdone : completeExchange Config.params c .readRecord Answer.good { u.visiting c k with answers := rest } = .ok t :=
    (completeExchange_readingAt hread).trans hafter
  rw [runAnswers_cons rfl, hdone]

theorem runAnswers_goodVisit_next (hc : IsTraversal c) (hr : RingReady Config.params s) (hk : k + 1 < s.count.toNat) :
    runAnswers Config.params (Answer.good :: rest) ((s.visited c k as).visiting c k) =
      runAnswers Config.params rest ((s.visited c (k + 1) rest).visiting c (k + 1)) := by
  let u : State := s.visited c k as
  have hnext := afterRecord_next (u := u.slotRead c (u.visitSlot c k) rest) hc hr hk
  rw [visited_succ]
  exact runAnswers_goodVisit (u := u) hr (hnext _ _)

theorem runAnswers_goodVisit_last (hc : IsTraversal c) (hr : RingReady Config.params s) (hk : k + 1 = s.count.toNat) :
    runAnswers Config.params (Answer.good :: rest) ((s.visited c k as).visiting c k) =
      .ok (((s.visited c (k + 1) rest).indexed c k).finish .ok 0) := by
  let u : State := s.visited c k as
  have hlast := afterRecord_last (P := Config.params) (u := u.slotRead c (u.visitSlot c k) rest) hc hr.1 hk
  rw [visited_succ]
  exact (runAnswers_goodVisit (u := u) hr (hlast _ _)).trans (runAnswers_idle rfl)

/-! ## The whole loop -/

/-- `k` good answers take a traversal to visit `k`, by induction on the number of visits. -/
theorem runAnswers_goodVisits (hc : IsTraversal c) (hr : RingReady Config.params s) (hk : k < s.count.toNat)
    (has : s.answers = goodThen k rest) :
    runAnswers Config.params s.answers (s.visiting c 0) =
      runAnswers Config.params rest ((s.visited c k rest).visiting c k) := by
  induction k generalizing rest with
  | zero => rw [visited_zero (as := rest) has, has]; rfl
  | succ k ih =>
    rw [ih (by omega) (has.trans (goodThen_add k 1 rest))]
    exact runAnswers_goodVisit_next hc hr hk

theorem exec_traversal_goodVisits (hc : IsTraversal c) (hp : s.phase = .idle) (hr : RingReady Config.params s)
    (hk : k < s.count.toNat) (has : s.answers = goodThen k rest) :
    exec c s = outcomeOf (runAnswers Config.params rest ((s.visited c k rest).visiting c k)) := by
  have hn : s.count ≠ 0 := fun h => by simp [h] at hk
  have hbegin : beginCommand Config.params c (s.accept c) = .ok (s.visiting c 0) :=
    beginTraversal (s := s.accept c) hc hr hn
  rw [exec_of_begin (isCommand_of_isTraversal hc) hp hbegin, runAnswers_goodVisits hc hr hk has]

/-- A traversal without a failure ends after the last visit with the beat `OK`, at once if the ring is empty (R194). -/
theorem exec_traversal_good (hc : IsTraversal c) (hp : s.phase = .idle) (hr : RingReady Config.params s)
    (has : s.answers = goodThen s.count.toNat rest) :
    ∃ i, exec c s = .next { (s.visited c s.count.toNat rest).answered (beat .ok true 0) with i := i } := by
  cases hn : s.count.toNat with
  | zero =>
    have hempty : s.count = 0 := BitVec.eq_of_toNat_eq hn
    rw [hn] at has
    rw [visited_zero (as := rest) has]
    exact ⟨s.i, exec_of_begin_idle (isCommand_of_isTraversal hc) hp
      (beginTraversal_empty (s := s.accept c) hc hr.1 hempty) rfl⟩
  | succ k =>
    rw [hn, goodThen_add] at has
    rw [exec_traversal_goodVisits hc hp hr (by omega) has]
    exact ⟨_, outcomeOf_next.mpr (runAnswers_goodVisit_last hc hr hn.symm)⟩

/-- A traversal whose read of visit `k` fails ends there with the failure's status (R192). -/
theorem exec_traversal_failed {o : TransportOutcome} {f : Fate} (hc : IsTraversal c) (hp : s.phase = .idle)
    (hr : RingReady Config.params s) (hk : k < s.count.toNat) (ho : o ≠ .ok)
    (has : s.answers = goodThen k (.returns o f :: rest)) :
    ∃ i, exec c s = .next
      { (s.visited c k rest).answered (beat o.status true 0) with
        i := i
        exchanges := (s.visited c k rest).exchanges ++
          [completed (readFrame Config.params (BitVec.ofNat 16 (s.visitSlot c k)) 2) o []] } := by
  rw [exec_traversal_goodVisits hc hp hr hk has]
  exact ⟨_, outcomeOf_next.mpr (runAnswers_readingAt_failed (slotOf_valid hr _) ho)⟩

/-! ## The statements -/

/-- The answer leaves PHASE as the idle block had it. -/
theorem answered_visited (hp : s.phase = .idle) (b : Beat) :
    (s.visited c k rest).answered b = { (s.visited c k rest).emit b with transport := none } := by
  rw [State.answered, ← hp]
  rfl

/-- Settles O46: `COUNT` good visits in either order, and the one order of slots is the reverse of the other. -/
theorem traversalsListTheRing : Obligations.TraversalsListTheRing := by
  intro s rest hp hr has slots beats reads
  obtain ⟨i, holdest⟩ := exec_traversal_good (.inl rfl) hp hr has
  obtain ⟨i', hnewest⟩ := exec_traversal_good (.inr rfl) hp hr has
  rw [answered_visited hp] at holdest hnewest
  have hreverse : slots.reverse = s.visitSlots .traverseNewest s.count.toNat := (visitSlots_newest s).symm
  refine ⟨⟨_, holdest, rfl⟩, ⟨_, hnewest, ?_⟩⟩
  simp only [beats, reads, ← List.map_reverse, hreverse]
  rfl

/-- Settles O47: `k` good visits in either order, then the visit that fails. -/
theorem traversalStopsAtTheFirstFailure : Obligations.TraversalStopsAtTheFirstFailure := by
  intro s k o f rest hp hr hk ho has oldest newest beats reads failed
  obtain ⟨i, holdest⟩ := exec_traversal_failed (.inl rfl) hp hr hk ho has
  obtain ⟨i', hnewest⟩ := exec_traversal_failed (.inr rfl) hp hr hk ho has
  rw [answered_visited hp] at holdest hnewest
  exact ⟨⟨_, holdest, rfl⟩, ⟨_, hnewest, rfl⟩⟩

end Sys2Proof.Machine
end

section
/-! How a command ends (R200, R202, R210): whatever its exchanges do short of a loss of power, it waits with record beats
only in a traversal, or it has ended with a status of its row; and of its steps only INIT's commit changes MODE. -/

namespace Sys2Proof.Machine

variable {P : Params} {c : Instr} {k : Position} {job : WriteJob} {g : GateStep} {s t u : State} {st st' : Status}
  {m : Mode} {bs : List Beat} {R : Status → Prop} {res : Except Fault State} {rx : Bytes}

/-! ## The statuses of a row -/

/-- Every command can end with the status of any outcome of an exchange. -/
theorem status_mem_finalStatuses (hc : IsCommand c = true) (o : TransportOutcome) : o.status ∈ finalStatuses c := by
  cases c with
  | init | append | lastRecord | recordAt | traverseOldest | traverseNewest =>
    cases o <;> simp [TransportOutcome.status, finalStatuses]
  | mediumWren | mediumWrdi | mediumRead | mediumWrite | mediumRdsr | mediumWrsr | mediumFastRead | mediumSleep
  | mediumRdid => cases hc

theorem ok_mem_finalStatuses (hc : IsCommand c = true) : .ok ∈ finalStatuses c := status_mem_finalStatuses hc .ok

theorem checkMode_some (h : checkMode s = some st) : st = .uninitialized := by
  obtain ⟨-, hm⟩ | ⟨-, hm⟩ := checkMode_cases s <;> cases hm.symm.trans h
  rfl

theorem checkNotEmpty_some {n : Word} (h : checkNotEmpty n = some st) : st = .zeroRecords := by
  unfold checkNotEmpty at h
  split at h <;> cases h
  rfl

theorem checkIndex_some {n i : Word} (h : checkIndex n i = some st) : st = .invalidArgument := by
  unfold checkIndex at h
  split at h <;> cases h
  rfl

/-- The gate hands on the status of its exchange, or the one it carries (R112, R113). -/
theorem gateNext_fails_status (h : gateNext g st = .fails st') : st' = st ∨ g = .wrdi st' := by
  cases g with
  | wren =>
    simp only [gateNext] at h
    split at h <;> cases h
  | write => cases h
  | wrdi r =>
    simp only [gateNext] at h
    split at h
    · cases h; exact .inr rfl
    · split at h <;> cases h
      exact .inl rfl
  | readBack => cases h; exact .inl rfl

/-- The closing WRDI carries the status of the exchange before it (R112, R113). -/
theorem gateNext_wrdi_status (h : gateNext g st = .goTo (.wrdi st')) : st' = st := by
  cases g with
  | wren =>
    simp only [gateNext] at h
    split at h <;> cases h
    rfl
  | write => cases h; rfl
  | wrdi r =>
    simp only [gateNext] at h
    split at h
    · cases h
    · split at h <;> cases h
  | readBack => cases h

/-! ## What stands along a command -/

/-- Position `k` is one that a command with the row of `c` can wait at: only a row with WRITE_FAILED has writes, the
steps of R175 are INIT's, and the status that the gate carries satisfies `R`. -/
def Position.Fits (R : Status → Prop) (c : Instr) : Position → Prop
  | .start => False
  | .readCount | .readCursor => c = .init
  | .write job g =>
    .writeFailed ∈ finalStatuses c ∧ (job = .fixCount ∨ job = .fixCursor → c = .init) ∧ ∀ r, g = .wrdi r → R r
  | .readRecord => True

/-- Before its final beat command `c` keeps MODE at `m`, and it has sent record beats after `bs` only as a traversal. -/
structure Underway (c : Instr) (m : Mode) (bs : List Beat) (u : State) : Prop where
  mode : u.mode = m
  beats : ∃ records : List Word, u.response = bs ++ records.map (beat .ok false) ∧ (records ≠ [] → IsTraversal c)

/-- Where command `c` can stand without a loss of power, its final status one of `R`. -/
inductive CommandRun (R : Status → Prop) (c : Instr) (m : Mode) (bs : List Beat) : State → Prop where
  /-- It waits for an exchange. -/
  | waits (k : Position) (u : State) (h : Underway c m bs u) (hk : k.Fits R c) (hp : u.phase = .run c k) :
      CommandRun R c m bs u
  /-- It has ended in the MODE it ran in. -/
  | ended (u : State) (st : Status) (r : Word) (h : Underway c m bs u) (hst : R st) (hr : st ≠ .ok → r = 0) :
      CommandRun R c m bs (u.finish st r)
  /-- It is an INIT that has ended with OK (R174). -/
  | booted (u : State) (h : Underway c m bs u) (hc : c = .init) (hok : R .ok) : CommandRun R c m bs (commitBootstrap u)

/-- A step of the block that answers leads to such a state. -/
def LeadsOn (R : Status → Prop) (c : Instr) (m : Mode) (bs : List Beat) (res : Except Fault State) : Prop :=
  ∀ t, res = .ok t → CommandRun R c m bs t

theorem leadsOn_error (e : Fault) : LeadsOn R c m bs (.error e) := fun _ h => by cases h

theorem leadsOn_ok (h : CommandRun R c m bs t) : LeadsOn R c m bs (.ok t) := fun _ ht => Except.ok.inj ht ▸ h

theorem Underway.raise (h : Underway c m bs s) (hst : R st) : LeadsOn R c m bs (.ok (s.raise st)) :=
  leadsOn_ok (.ended s st 0 h hst fun _ => rfl)

theorem Underway.finishOk (h : Underway c m bs s) (hok : R .ok) (r : Word) : LeadsOn R c m bs (.ok (s.finish .ok r)) :=
  leadsOn_ok (.ended s .ok r h hok fun hne => absurd rfl hne)

theorem Underway.issue (h : Underway c m bs s) (hk : k.Fits R c) : LeadsOn R c m bs (issue P c k s) := by
  intro t ht
  obtain ⟨x, -, rfl⟩ := issue_ok ht
  exact .waits k _ { h with } hk rfl

theorem Underway.startWrite (h : Underway c m bs s) (hw : .writeFailed ∈ finalStatuses c)
    (hj : job = .fixCount ∨ job = .fixCursor → c = .init) : LeadsOn R c m bs (startWrite P c job s) :=
  Underway.issue (s := { s with j := 0 }) { h with } ⟨hw, hj, fun _ => GateStep.noConfusion⟩

theorem Underway.emit (h : Underway c m bs s) (hc : IsTraversal c) (r : Word) :
    Underway c m bs (s.emit (beat .ok false r)) := by
  obtain ⟨hm, records, hresp, -⟩ := h
  exact ⟨hm, records ++ [r], by simp [hresp], fun _ => hc⟩

/-! ## The step after an exchange -/

theorem Underway.checkCursorValue (h : Underway .init m bs s) (hok : R .ok) :
    LeadsOn R .init m bs (checkCursorValue P s) := by
  unfold Machine.checkCursorValue
  split
  · exact leadsOn_ok (.booted s h rfl hok)
  · exact h.startWrite (by decide) fun _ => rfl

theorem Underway.checkCountValue (h : Underway .init m bs s) (hok : R .ok) :
    LeadsOn R .init m bs (checkCountValue P s) := by
  unfold Machine.checkCountValue
  split
  · exact h.checkCursorValue hok
  · exact h.startWrite (by decide) fun _ => rfl

theorem Underway.afterJob (h : Underway c m bs s) (hok : R .ok) (hk : (Position.write job g).Fits R c) :
    LeadsOn R c m bs (afterJob P c job s) := by
  obtain ⟨hw, hj, -⟩ := hk
  cases job with
  | payload =>
    dsimp only [Machine.afterJob, wrotePayload]
    split
    · exact leadsOn_error _
    · next n _ =>
      exact Underway.startWrite (s := { s with newCount := saturatingCount P n }) { h with } hw (by simp)
  | newCount =>
    dsimp only [Machine.afterJob, wroteCount]
    split
    · exact leadsOn_error _
    · next a _ =>
      exact Underway.startWrite
        (s := { s with count := s.newCount, newCursor := BitVec.ofNat 16 (nextSlot P a) }) { h with } hw (by simp)
  | newCursor => exact Underway.finishOk (s := { s with cursor := s.newCursor }) { h with } hok 0
  | fixCount =>
    obtain rfl := hj (.inl rfl)
    exact Underway.checkCursorValue (s := { s with cnt0 := 0 }) { h with } hok
  | fixCursor =>
    exact leadsOn_ok (.booted { s with cur0 := BitVec.ofNat 16 P.ringStart } { h with } (hj (.inr rfl)) hok)

theorem Underway.afterRead2 {f : Byte → Byte → State → Except Fault State} (h : Underway c m bs s) (hst : R st)
    (hf : ∀ b0 b1, LeadsOn R c m bs (f b0 b1 s)) : LeadsOn R c m bs (afterRead2 st rx s f) := by
  intro t ht
  obtain ⟨-, rfl⟩ | ⟨-, b0, b1, -, hgot⟩ := afterRead2_ok ht
  · exact h.raise hst _ rfl
  · exact hf b0 b1 t hgot

section
variable (hc : IsCommand c = true) (hrow : ∀ st ∈ finalStatuses c, R st)
include hc hrow

theorem Underway.afterReadBack (h : Underway c m bs s) (hk : (Position.write job g).Fits R c) (b : Byte) :
    LeadsOn R c m bs (afterReadBack P c job b s) := by
  obtain ⟨hw, hj, hcarried⟩ := hk
  have hrb : Underway c m bs { s with rb := b } := { h with }
  unfold Machine.afterReadBack
  split
  · exact leadsOn_error _
  · dsimp only
    split
    · split
      · exact Underway.issue (s := { s with rb := b, j := 1 }) { h with } ⟨hw, hj, fun _ => GateStep.noConfusion⟩
      · exact hrb.afterJob (hrow _ (ok_mem_finalStatuses hc)) ⟨hw, hj, hcarried⟩
    · exact hrb.raise (hrow _ hw)

theorem Underway.afterRecord (h : Underway c m bs s) (b0 b1 : Byte) :
    LeadsOn R c m bs (afterRecord P c b0 b1 s) := by
  have hok : R .ok := hrow _ (ok_mem_finalStatuses hc)
  cases c with
  | lastRecord | recordAt => exact h.finishOk hok _
  | traverseOldest =>
    have hbeat := h.emit (.inl rfl) (decodedRecord b0 b1)
    dsimp only [Machine.afterRecord, gotOldest]
    split
    · exact leadsOn_error _
    · split
      · exact Underway.issue (s := { s.emit (beat .ok false (decodedRecord b0 b1)) with i := s.i + 1 })
          { hbeat with } trivial
      · exact hbeat.finishOk hok 0
  | traverseNewest =>
    have hbeat := h.emit (.inr rfl) (decodedRecord b0 b1)
    dsimp only [Machine.afterRecord, gotNewest]
    split
    · exact Underway.issue (s := { s.emit (beat .ok false (decodedRecord b0 b1)) with i := s.i - 1 })
        { hbeat with } trivial
    · exact hbeat.finishOk hok 0
  | init | append => exact leadsOn_error _
  | mediumWren | mediumWrdi | mediumRead | mediumWrite | mediumRdsr | mediumWrsr | mediumFastRead | mediumSleep
  | mediumRdid => cases hc

theorem Underway.afterExchange (h : Underway c m bs s) (hk : k.Fits R c) (hst : R st) :
    LeadsOn R c m bs (afterExchange P c k st rx s) := by
  have hok : R .ok := hrow _ (ok_mem_finalStatuses hc)
  cases k with
  | start => exact hk.elim
  | readCount =>
    obtain rfl : c = .init := hk
    exact h.afterRead2 hst fun b0 b1 =>
      Underway.issue (s := { s with cnt0 := unmeta16 P b0 b1 }) { h with } (k := .readCursor) rfl
  | readCursor =>
    obtain rfl : c = .init := hk
    exact h.afterRead2 hst fun b0 b1 =>
      Underway.checkCountValue (s := { s with cur0 := unmeta16 P b0 b1 }) { h with } hok
  | readRecord => exact h.afterRead2 hst (h.afterRecord hc hrow)
  | write job g =>
    cases g with
    | readBack =>
      dsimp only [Machine.afterExchange]
      split
      · exact h.raise hst
      · split
        · exact h.afterReadBack hc hrow hk _
        · exact leadsOn_error _
    | wren | write | wrdi =>
      obtain ⟨hw, hj, hcarried⟩ := hk
      dsimp only [Machine.afterExchange]
      split
      · next g' hn =>
        refine h.issue ⟨hw, hj, ?_⟩
        rintro r rfl
        exact gateNext_wrdi_status hn ▸ hst
      · next st' hn =>
        obtain rfl | hg := gateNext_fails_status hn
        · exact h.raise hst
        · exact h.raise (hcarried st' hg)

/-! ## A run of exchanges -/

/-- An exchange that returns goes on with the command. -/
theorem Underway.completeExchange {o : TransportOutcome} {f : Fate} (h : Underway c m bs s) (hk : k.Fits R c) :
    LeadsOn R c m bs (completeExchange P c k (.returns o f) s) := by
  intro t ht
  obtain ⟨x, i, -, -, ⟨b, w, u, hb, -⟩ | ⟨o', f', rx, u, -, hm, hafter⟩⟩ := completeExchange_ok ht
  · cases hb
  · have hu : MediumOnly s u := (mediumFrame_ok hm).1
    have hbefore : Underway c m bs (u.note x (some o') (if o' = .ok then rx else [])).release := by
      rw [MediumOnly] at hu
      rw [hu]
      exact { h with }
    exact hbefore.afterExchange hc hrow hk (hrow _ (status_mem_finalStatuses hc o')) t hafter

/-- A run of exchanges goes on with the command, or one of them loses power, which resets MODE (R232). -/
theorem CommandRun.runAnswers (h : CommandRun R c m bs u) (hrun : runAnswers P u.answers u = .ok t) :
    CommandRun R c m bs t ∨ (u.powered = false ∧ t.mode = .uninit ∧ t.phase = .idle) := by
  refine (runAnswers_keeps (Q := fun v => v.answers <:+ u.answers ∧
    (CommandRun R c m bs v ∨ (u.powered = false ∧ v.mode = .uninit ∧ v.phase = .idle))) ?_ rfl
    ⟨List.suffix_rfl, .inl h⟩ hrun).2
  intro c' k b rest v w ⟨hsuffix, hv⟩ hrunning hb hx
  rw [hb] at hsuffix
  refine ⟨(completeExchange_channels hx).1 ▸ (List.suffix_cons b rest).trans hsuffix, ?_⟩
  obtain (⟨k', _, hunder, hk, hp⟩ | _ | _) | ⟨-, -, hidle⟩ := hv
  · obtain ⟨rfl, rfl⟩ := Phase.run.inj (hrunning.symm.trans hp)
    cases b with
    | returns o f =>
      exact .inl (Underway.completeExchange (s := { v with answers := rest }) hc hrow { hunder with } hk w hx)
    | powerLoss b wel =>
      obtain ⟨x, i, -, -, ⟨b', wel', v', -, -, rfl⟩ | ⟨o, f, rx, v', hret, -⟩⟩ := completeExchange_ok hx
      · exact .inr ⟨List.all_eq_false.mpr ⟨_, hsuffix.subset List.mem_cons_self, Bool.false_ne_true⟩, rfl, rfl⟩
      · cases hret
  · cases hrunning
  · cases hrunning
  · cases hidle.symm.trans hrunning

end

/-! ## A command -/

/-- MODE from the first step of command `c` on: INIT sets UNINIT on entry (R178). -/
def State.entryMode (s : State) (c : Instr) : Mode := if c = .init then .uninit else s.mode

theorem underway_accept (hi : c ≠ .init) : Underway c (s.entryMode c) s.response (s.accept c) :=
  ⟨(if_neg hi).symm, [], (List.append_nil _).symm, fun h => absurd rfl h⟩

/-- The checks before the first exchange end a command with a status of its row (R203). -/
theorem beginCommand_leadsOn (hc : IsCommand c = true) (hrow : ∀ st ∈ finalStatuses c, R st) :
    LeadsOn R c (s.entryMode c) s.response (beginCommand P c (s.accept c)) := by
  cases c with
  | init =>
    have h : Underway .init .uninit s.response { s.accept .init with mode := .uninit } :=
      ⟨rfl, [], (List.append_nil _).symm, fun h => absurd rfl h⟩
    exact h.issue (k := .readCount) rfl
  | append level thread code =>
    have h := underway_accept (s := s) (c := .append level thread code) Instr.noConfusion
    dsimp only [beginCommand, startAppend]
    split
    · next st hst => exact h.raise (hrow _ (by simp [checkMode_some hst, finalStatuses]))
    · split
      · next st hst => exact h.raise (hrow _ (by simp [checkRecord_some hst, finalStatuses]))
      · exact Underway.startWrite (s := { s.accept _ with hi := _, lo := _ }) { h with } (by simp [finalStatuses])
          (by simp)
  | lastRecord =>
    have h := underway_accept (s := s) (c := .lastRecord) Instr.noConfusion
    dsimp only [beginCommand, startLastRecord]
    split
    · next st hst => exact h.raise (hrow _ (by simp [checkMode_some hst, finalStatuses]))
    · split
      · exact leadsOn_error _
      · split
        · next st hst => exact h.raise (hrow _ (by simp [checkNotEmpty_some hst, finalStatuses]))
        · exact h.issue trivial
  | recordAt i =>
    have h := underway_accept (s := s) (c := .recordAt i) Instr.noConfusion
    dsimp only [beginCommand, startRecordAt]
    split
    · next st hst => exact h.raise (hrow _ (by simp [checkMode_some hst, finalStatuses]))
    · split
      · exact leadsOn_error _
      · split
        · next st hst => exact h.raise (hrow _ (by simp [checkNotEmpty_some hst, finalStatuses]))
        · split
          · next st hst => exact h.raise (hrow _ (by simp [checkIndex_some hst, finalStatuses]))
          · exact h.issue trivial
  | traverseOldest =>
    have h := underway_accept (s := s) (c := .traverseOldest) Instr.noConfusion
    dsimp only [beginCommand, startTraverseOldest]
    split
    · next st hst => exact h.raise (hrow _ (by simp [checkMode_some hst, finalStatuses]))
    · split
      · exact leadsOn_error _
      · split
        · exact h.finishOk (hrow _ (ok_mem_finalStatuses hc)) 0
        · exact Underway.issue (s := { s.accept _ with i := 1 }) { h with } trivial
  | traverseNewest =>
    have h := underway_accept (s := s) (c := .traverseNewest) Instr.noConfusion
    dsimp only [beginCommand, startTraverseNewest]
    split
    · next st hst => exact h.raise (hrow _ (by simp [checkMode_some hst, finalStatuses]))
    · split
      · exact leadsOn_error _
      · next n _ =>
        split
        · exact h.finishOk (hrow _ (ok_mem_finalStatuses hc)) 0
        · exact Underway.issue (s := { s.accept _ with i := n }) { h with } trivial
  | mediumWren | mediumWrdi | mediumRead | mediumWrite | mediumRdsr | mediumWrsr | mediumFastRead | mediumSleep
  | mediumRdid => cases hc

/-- A command of an idle block, ended or waiting, or cut off by a loss of power. -/
theorem exec_commandRun (hc : IsCommand c = true) (hrow : ∀ st ∈ finalStatuses c, R st) (hp : s.phase = .idle)
    (h : exec c s = .next t) :
    CommandRun R c (s.entryMode c) s.response t ∨ (s.powered = false ∧ t.mode = .uninit ∧ t.phase = .idle) := by
  obtain ⟨u, hu, hrun⟩ := exec_idle_next hc hp h
  have hanswers : u.answers = s.answers := (beginCommand_keeps hu).answers
  have hpow : u.powered = s.powered := congrArg (·.all Answer.powered) hanswers
  rw [← hanswers] at hrun
  exact hpow ▸ (beginCommand_leadsOn hc hrow u hu).runAnswers hc hrow hrun

/-- Settles O52: the one final beat of a run that has ended, after the record beats of a traversal. -/
theorem commandsEndWithTheirStatuses : Obligations.CommandsEndWithTheirStatuses := by
  intro s t c hp hpow hc h hidle
  obtain hrun | ⟨hlost, -⟩ := exec_commandRun (R := (· ∈ finalStatuses c)) hc (fun _ => id) hp h
  · cases hrun with
    | waits k _ hunder hk hrunning => cases hidle.symm.trans hrunning
    | ended u st r hunder hst hr =>
      obtain ⟨-, records, hresp, htrav⟩ := hunder
      exact ⟨st, r, records, hst, hr, congrArg (· ++ [beat st true r]) hresp, htrav⟩
    | booted u hunder hinit hok =>
      obtain ⟨-, records, hresp, htrav⟩ := hunder
      exact ⟨.ok, 0, records, hok, fun _ => rfl, congrArg (· ++ [beat .ok true 0]) hresp, htrav⟩
  · cases hlost.symm.trans hpow

end Sys2Proof.Machine
end

section
/-! MODE over a step (R210): only INIT's commit brings BOOT, and only INIT or a loss of power takes it away. -/

namespace Sys2Proof.Machine

variable {P : Params} {c : Instr} {k : Position} {s t : State} {m : Mode} {bs : List Beat}

/-- What R210 lets a step with command `c` in hand do to MODE. -/
def ModeRule (c : Instr) (s t : State) : Prop :=
  t.mode = s.mode ∨ (s.powered = false ∧ t.mode = .uninit) ∨
  (c = .init ∧ (t.mode = .boot → t.phase = .idle ∧ t.response.getLast? = some (beat .ok true 0)))

/-- Along a command MODE stays as it was on entry, or INIT has committed. -/
theorem CommandRun.mode_cases {R : Status → Prop} (h : CommandRun R c m bs t) :
    t.mode = m ∨ (c = .init ∧ t.phase = .idle ∧ t.response.getLast? = some (beat .ok true 0)) := by
  cases h with
  | waits k _ hunder => exact .inl hunder.mode
  | ended u st r hunder => exact .inl hunder.mode
  | booted u hunder hinit => exact .inr ⟨hinit, rfl, List.getLast?_concat⟩

theorem exec_modeRule (hc : IsCommand c = true) (hp : s.phase = .idle) (h : exec c s = .next t) : ModeRule c s t := by
  obtain hrun | ⟨hlost, hm, -⟩ := exec_commandRun (R := fun _ => True) hc (fun _ _ => trivial) hp h
  · obtain hm | ⟨hinit, hend⟩ := hrun.mode_cases
    · by_cases hinit : c = .init
      · have huninit : t.mode = .uninit := hm.trans (if_pos hinit)
        exact .inr (.inr ⟨hinit, fun hboot => by cases huninit.symm.trans hboot⟩)
      · exact .inl (hm.trans (if_neg hinit))
    · exact .inr (.inr ⟨hinit, fun _ => hend⟩)
  · exact .inr (.inl ⟨hlost, hm⟩)

/-- A position that a command relies on is one of its own; the status the gate carries is left open. -/
theorem fits_of_commandReady (h : CommandReady P c k s) : k.Fits (fun _ => True) c := by
  cases k with
  | start => exact not_commandReady_start h
  | readCount => exact (commandReady_metaRead h (.inl rfl)).1
  | readCursor => exact (commandReady_metaRead h (.inr rfl)).1
  | readRecord => trivial
  | write job g =>
    obtain ⟨-, ⟨rfl, -⟩ | ⟨⟨level, thread, code, rfl⟩, -, hjob⟩⟩ := commandReady_write h
    · exact ⟨by decide, fun _ => rfl, fun _ _ => trivial⟩
    · refine ⟨by simp [finalStatuses], fun hfix => ?_, fun _ _ => trivial⟩
      obtain rfl | ⟨rfl, -⟩ | ⟨rfl, -⟩ := hjob <;> obtain hfix | hfix := hfix <;> cases hfix

theorem isCommand_of_commandReady (h : CommandReady P c k s) : IsCommand c = true := by
  cases c with
  | init | append | lastRecord | recordAt | traverseOldest | traverseNewest => rfl
  | mediumWren | mediumWrdi | mediumRead | mediumWrite | mediumRdsr | mediumWrsr | mediumFastRead | mediumSleep
  | mediumRdid => exact h.elim

theorem step_running_modeRule (hinv : Inv Config.params s) (hp : s.phase = .run c k) (h : step s = .next t) :
    ModeRule c s t := by
  have hready : CommandReady Config.params c k s := ((blockOk_running hp).mp hinv.2).1
  rw [step_pastStart hp fun hk => not_commandReady_start (hk ▸ hready), outcomeOf_next] at h
  have hunder : Underway c s.mode s.response s := ⟨rfl, [], (List.append_nil _).symm, fun h => absurd rfl h⟩
  have hat : CommandRun (fun _ => True) c s.mode s.response s := .waits k s hunder (fits_of_commandReady hready) hp
  obtain hrun | ⟨hlost, hm, -⟩ := hat.runAnswers (isCommand_of_commandReady hready) (fun _ _ => trivial) h
  · obtain hm | ⟨hinit, hend⟩ := hrun.mode_cases
    · exact .inl hm
    · exact .inr (.inr ⟨hinit, fun _ => hend⟩)
  · exact .inr (.inl ⟨hlost, hm⟩)

/-- Of the arrivals only a command and a loss of power can change MODE. -/
theorem onArrival_modeRule {a : Arrival} (hp : s.phase = .idle) (h : onArrival a s = .next t) :
    t.mode = s.mode ∨ (∃ w c, a = .command w ∧ decodeCommand w = .ok c ∧ ModeRule c s t) ∨
    ∃ wel, a = .powerCycle wel ∧ t.mode = .uninit := by
  cases a with
  | command w =>
    cases hd : decodeCommand w with
    | ok c =>
      rw [onArrival_command hd] at h
      exact .inr (.inl ⟨w, c, rfl, hd, exec_modeRule (decodeCommand_isCommand hd) hp h⟩)
    | error r =>
      rw [onArrival_illegalCommand hd] at h
      cases h
      exact .inl rfl
  | frame x =>
    cases hd : decodeFrame Config.params x with
    | ok i =>
      rw [onArrival_frame hd] at h
      obtain he | ⟨r, he⟩ := exec_frame (decodeFrame_not_isCommand hd) <;> rw [he] at h
      · obtain ⟨y, rx, u, -, hm, rfl⟩ := carryOut_next h
        have hu : MediumOnly s u := (mediumFrame_ok hm).1
        rw [MediumOnly] at hu
        rw [hu]
        exact .inl rfl
      · cases h
    | error r =>
      rw [onArrival_notAFrame hd] at h
      cases h
  | externalByte a b =>
    by_cases ha : a < 32768
    · rw [onArrival_byteInside ha] at h
      cases h
      exact .inl rfl
    · rw [onArrival_byteBeyond ha] at h
      cases h
  | pins protect hold =>
    cases h
    exact .inl rfl
  | powerCycle wel =>
    cases h
    exact .inr (.inr ⟨wel, rfl, rfl⟩)

/-- A step of the machine that changes MODE has a command in hand, or loses power while idle. -/
theorem step_modeRule (hinv : Inv Config.params s) (h : step s = .next t) :
    t.mode = s.mode ∨
    (∃ c, ModeRule c s t ∧ ((∃ k, s.phase = .run c k) ∨
      (s.phase = .idle ∧ ∃ w, s.nextRequest = some w ∧ decodeCommand w = .ok c))) ∨
    (t.mode = .uninit ∧ s.phase = .idle ∧ s.requests = [] ∧ ∃ wel rest, s.inbox = .powerCycle wel :: rest) := by
  obtain hp | ⟨c, k, hp⟩ := phase_cases s
  · cases hr : s.requests with
    | cons w rest =>
      rw [step_of_request hp hr] at h
      obtain hm | ⟨w', c, hw, hd, hrule⟩ | ⟨wel, hw, -⟩ :=
        onArrival_modeRule (s := { s with requests := rest }) hp h
      · exact .inl hm
      · cases hw
        exact .inr (.inl ⟨c, hrule, .inr ⟨hp, w, by simp [State.nextRequest, hr], hd⟩⟩)
      · cases hw
    | nil =>
      cases hi : s.inbox with
      | cons a rest =>
        rw [step_of_arrival hp hr hi] at h
        obtain hm | ⟨w, c, rfl, hd, hrule⟩ | ⟨wel, rfl, hm⟩ :=
          onArrival_modeRule (s := { s with inbox := rest }) hp h
        · exact .inl hm
        · exact .inr (.inl ⟨c, hrule, .inr ⟨hp, w, by simp [State.nextRequest, hr, hi], hd⟩⟩)
        · exact .inr (.inr ⟨hm, hp, rfl, wel, rest, rfl⟩)
      | nil =>
        rw [step_of_nothing hp hr hi] at h
        cases h
        exact .inl rfl
  · exact .inr (.inl ⟨c, step_running_modeRule hinv hp h, .inl ⟨k, hp⟩⟩)

/-- Settles O53: the command in hand is INIT, or power is lost, inside the command or while idle. -/
theorem modeChangesOnlyByInitOrReset : Obligations.ModeChangesOnlyByInitOrReset := by
  intro s t hinv h hne initInHand
  obtain hm | ⟨c, hm | ⟨hlost, hm⟩ | ⟨rfl, hend⟩, hand⟩ | ⟨hm, hidle⟩ := step_modeRule hinv h
  · exact absurd hm.symm hne
  · exact absurd hm.symm hne
  · exact ⟨fun hboot => (by cases hm.symm.trans hboot), fun _ => .inr (.inl hlost)⟩
  · exact ⟨fun hboot => ⟨hand, hend hboot⟩, fun _ => .inl hand⟩
  · exact ⟨fun hboot => (by cases hm.symm.trans hboot), fun _ => .inr (.inr hidle)⟩

end Sys2Proof.Machine
end

section
/-! The encodings (R80-R85, R94, R95, R98): decoder and encoder of the two channels are inverse to each other, for every
legal parameter set. -/

namespace Sys2Proof.Machine

variable {P : Params} {i j : Instr} {x : Exchange} {w : CommandWord}

/-! ## Decoding what was encoded -/

/-- A command word decodes to its instruction: each of the six `OP` values has its own, and the fields come back. -/
theorem decodeCommand_encode (h : encode P i = .command w) : decodeCommand w = .ok i := by
  cases i with
  | init | lastRecord | traverseOldest | traverseNewest => cases h; decide
  | append | recordAt =>
    cases h
    simp [decodeCommand, cmdOp_commandWord, cmdRsv_commandWord, cmdA_commandWord, cmdB_commandWord, cmdC_commandWord]
  | mediumWren | mediumWrdi | mediumRead | mediumWrite | mediumRdsr | mediumWrsr | mediumFastRead | mediumSleep
  | mediumRdid => cases h

theorem takeAddress_addressBytes_nil (P : Params) (a : Word) :
    takeAddress (P.addrBytes - 2) (addressBytes P a) = .ok (a, []) := by
  simpa using takeAddress_addressBytes P a []

/-- The opcodes of R7 backwards: with `legal_nodup`, each differs from every other, on whichever side it stands. -/
theorem opcodes_reverse_nodup (hP : P.Legal) :
    [P.opcodes.rdid, P.opcodes.sleep, P.opcodes.write, P.opcodes.fastRead, P.opcodes.read, P.opcodes.wrsr,
      P.opcodes.rdsr, P.opcodes.wrdi, P.opcodes.wren].Nodup :=
  List.nodup_reverse.mpr (Laws.Layout.legal_nodup hP)

/-- A medium frame decodes to its instruction: its first byte is the opcode of no other frame (R98). -/
theorem decodeFrame_encode (hP : P.Legal) (hi : i.wellFormed = true) (h : encode P i = .exchange x) :
    decodeFrame P x = .ok i := by
  have hne := Laws.Layout.legal_nodup hP
  have hne' := opcodes_reverse_nodup hP
  simp only [Opcodes.toList, List.nodup_cons, List.mem_cons, List.not_mem_nil, or_false, not_or] at hne hne'
  cases i with
  | init | append | lastRecord | recordAt | traverseOldest | traverseNewest => cases h
  | mediumWren | mediumWrdi | mediumRdsr | mediumWrsr | mediumFastRead | mediumSleep | mediumRdid =>
    cases h
    simp [decodeFrame, oneByteFrame, opcodeFrame, hne, hne']
  | mediumRead a n =>
    cases h
    have hn : n = 1 ∨ n = 2 := by simpa [Instr.wellFormed] using hi
    simp [decodeFrame, readFrame, takeAddress_addressBytes_nil, hne', hn]
  | mediumWrite a d =>
    cases h
    simp [decodeFrame, writeFrame, hne']

/-- Settles O1: on either channel the decoder gives back the instruction that was encoded. -/
theorem decodeInvertsEncode : Obligations.DecodeInvertsEncode := by
  intro P i hP hi
  cases h : encode P i with
  | command w => exact decodeCommand_encode h
  | exchange x => exact decodeFrame_encode hP hi h

/-! ## Encoding what was decoded -/

/-- An exchange read as a frame of the opcode alone is that frame. -/
theorem encode_opcodeFrame {op op' : Byte} {rest : Bytes} {n : Nat} (hop : op = op')
    (h : opcodeFrame ⟨op :: rest, n⟩ j = .ok i)
    (hj : j.wellFormed = true ∧ encode P j = .exchange (oneByteFrame op')) :
    i.wellFormed = true ∧ encode P i = .exchange ⟨op :: rest, n⟩ := by
  subst hop
  obtain ⟨hlen, rfl, rfl⟩ := opcodeFrame_ok.mp h
  obtain rfl : rest = [] := List.length_eq_zero_iff.mp (Nat.succ.inj hlen)
  exact hj

/-- What an exchange decodes to is well-formed and encodes to that exchange. -/
theorem encode_decodeFrame (h : decodeFrame P x = .ok i) : i.wellFormed = true ∧ encode P i = .exchange x := by
  obtain ⟨tx, n⟩ := x
  cases tx with
  | nil => cases h
  | cons op operands =>
    simp only [decodeFrame] at h
    split at h
    · next hop => exact encode_opcodeFrame hop h ⟨rfl, rfl⟩
    split at h
    · next hop => exact encode_opcodeFrame hop h ⟨rfl, rfl⟩
    split at h
    · next hop =>
      subst hop
      split at h
      · cases h
      · next a haddr =>
        split at h
        · next hn =>
          cases h
          exact ⟨by simpa [Instr.wellFormed] using hn, by rw [takeAddress_ok haddr]; rfl⟩
        · cases h
      · cases h
    split at h
    · next hop =>
      subst hop
      split at h
      · cases h
      · next a d haddr =>
        split at h
        · next hn =>
          cases h
          subst hn
          refine ⟨rfl, ?_⟩
          rw [takeAddress_ok haddr]
          simp [encode, writeFrame, addressBytes]
        · cases h
      · cases h
      · cases h
    split at h
    · next hop => exact encode_opcodeFrame hop h ⟨rfl, rfl⟩
    split at h
    · next hop => exact encode_opcodeFrame hop h ⟨rfl, rfl⟩
    split at h
    · next hop => exact encode_opcodeFrame hop h ⟨rfl, rfl⟩
    split at h
    · next hop => exact encode_opcodeFrame hop h ⟨rfl, rfl⟩
    split at h
    · next hop => exact encode_opcodeFrame hop h ⟨rfl, rfl⟩
    · cases h

theorem wellFormed_of_isCommand (h : IsCommand i = true) : i.wellFormed = true := by
  cases i with
  | init | append | lastRecord | recordAt | traverseOldest | traverseNewest => rfl
  | mediumWren | mediumWrdi | mediumRead | mediumWrite | mediumRdsr | mediumWrsr | mediumFastRead | mediumSleep
  | mediumRdid => cases h

/-- Settles O2: on either channel the word that decodes is the word the instruction encodes to. -/
theorem encodeInvertsDecode : Obligations.EncodeInvertsDecode := by
  intro P w i _ h
  cases w with
  | command w => exact ⟨wellFormed_of_isCommand (decodeCommand_isCommand h), encode_decodeCommand h⟩
  | exchange x => exact encode_decodeFrame h

/-! ## The words of R94 and the spec's written-out words -/

/-- A command word by shifts: each field at its place (R80). -/
theorem commandWord_eq_shifts (op : Byte) (a : Word) (b c : Byte) :
    commandWord op a b c =
      (op.setWidth 64 <<< 56) ||| (a.setWidth 64 <<< 16) ||| (b.setWidth 64 <<< 8) ||| c.setWidth 64 := by
  ext k hk
  simp [commandWord]
  grind

/-- Settles O3: the fields of each command's word, by their shifts. -/
theorem commandsAssembleAsR94 : Obligations.CommandsAssembleAsR94 := by
  intro P level thread code i
  refine ⟨congrArg Wire.command (commandWord_eq_shifts ..), ?_, rfl, rfl, rfl, rfl⟩
  exact congrArg Wire.command ((commandWord_eq_shifts ..).trans (by simp))

/-- Settles O4: the decoder computes each of the ten words. -/
theorem writtenOutWordsDecode : Obligations.WrittenOutWordsDecode := by
  unfold Obligations.WrittenOutWordsDecode
  decide

/-- The bits of a beat, from the lowest: RECORD, eleven zeros, LAST, STATUS (R86). -/
theorem getLsbD_beat (st : Status) (last : Bool) (r : Word) (k : Nat) :
    (beat st last r).getLsbD k =
      if k < 16 then r.getLsbD k
      else if k < 27 then false
      else if k = 27 then last
      else st.code.getLsbD (k - 28) := by
  have happend : beat st last r =
      (st.code ++ BitVec.ofBool last ++ (0 : BitVec 11) ++ r : BitVec (4 + 1 + 11 + 16)) := rfl
  rw [happend]
  simp
  grind

/-- Settles O6: the concatenation of R86 field by field. -/
theorem beatFieldsAreWhereR86PutsThem : Obligations.BeatFieldsAreWhereR86PutsThem := by
  refine ⟨fun st last r => ⟨?_, getLsbD_beat st last r 27, ?_, ?_⟩, rfl⟩
  · ext k hk
    simp [BitVec.getElem_extractLsb', getLsbD_beat]
    grind
  · ext k hk
    simp [BitVec.getElem_extractLsb', getLsbD_beat]
    omega
  · ext k hk
    simp [BitVec.getElem_extractLsb', getLsbD_beat, hk]

end Sys2Proof.Machine
end

section
/-! Loss of power (R230, R232, R234): an idle block is reset; a command in progress is abandoned at its exchange. -/

namespace Sys2Proof.Machine

variable {s u : State} {i c : Instr} {k : Position} {b : Byte} {wel : Bool} {x : Exchange} {rest : List Answer}

/-- Settles O29: the arrival resets the block, and the medium is no part of it. -/
theorem powerCycleKeepsTheMedium : Obligations.PowerCycleKeepsTheMedium := by
  intro s wel rest hp hr hi
  rw [step_of_arrival hp hr hi, onArrival_powerCycle]
  rfl

/-! ## Inside a command -/

theorem interruptedFrame_mem_only {P : Params} (h : interruptedFrame P i b s = .ok u) : u = { s with mem := u.mem } := by
  obtain rfl | ⟨a, d, -, -, rfl⟩ := interruptedFrame_ok h <;> rfl

/-- An interrupted WRITE leaves `b` at its address and every other byte as it was (R234). -/
theorem byte_interruptedWrite {a : Word} {d : Byte}
    (h : interruptedFrame Config.params (.mediumWrite a d) b s = .ok u) (hm : MediumOk Config.params s) (y : Nat) :
    u.byte y = if y = a.toNat then b else s.byte y := by
  simp only [interruptedFrame] at h
  split at h
  · cases h
    exact Mem.read_write a.toNat b y hm.1
  · cases h

/-- A loss of power in a sound state resets the block; the medium is that of the interrupted frame (R232, R234). -/
theorem step_powerLoss (hinv : Inv Config.params s) (hp : s.phase = .run c k) (hx : s.transport = some x)
    (has : s.answers = .powerLoss b wel :: rest) :
    ∃ i u, decodeFrame Config.params x = .ok i ∧
      interruptedFrame Config.params i b { s with answers := rest } = .ok u ∧
      step s = .next ((u.note x none []).powerCycle wel) := by
  have hready : CommandReady Config.params c k s := ((blockOk_running hp).mp hinv.2).1
  obtain ⟨t, ht, -⟩ :=
    completeExchange_inv (s := { s with answers := rest }) (.powerLoss b wel) (inv_answers rest hinv) hp
  obtain ⟨x', i, hx', hi, ⟨b', wel', u, ha, hu, rfl⟩ | ⟨o, f, rx, u, ha, -⟩⟩ := completeExchange_ok ht
  · cases ha
    cases hx'.symm.trans hx
    refine ⟨i, u, hi, hu, ?_⟩
    rw [step_pastStart hp fun hk => not_commandReady_start (hk ▸ hready), outcomeOf_next, has, runAnswers_cons hp, ht]
    exact runAnswers_idle rfl
  · cases ha

/-- Settles O30: the block is that of the reset, the medium that of the interrupted frame. -/
theorem powerLossAbandonsTheCommand : Obligations.PowerLossAbandonsTheCommand := by
  intro s c k x b wel rest hinv hp hx has
  obtain ⟨i, u, hi, hu, hstep⟩ := step_powerLoss hinv hp hx has
  refine ⟨_, hstep, ?_, fun y => ?_⟩
  · rw [interruptedFrame_mem_only hu]
    rfl
  · have hdecode : decode Config.params (.exchange x) = .ok i := hi
    rw [hdecode]
    cases i with
    | mediumWrite a d => exact byte_interruptedWrite hu hinv.1 y
    | init | append | lastRecord | recordAt | traverseOldest | traverseNewest | mediumWren | mediumWrdi | mediumRead
    | mediumRdsr | mediumWrsr | mediumFastRead | mediumSleep | mediumRdid =>
      cases hu
      rfl

end Sys2Proof.Machine
end

section
/-! A protected medium (R65, R236): no step changes a byte of it, and an APPEND that would change one is told so by its
read-back. -/

namespace Sys2Proof.Machine

variable {P : Params} {c : Instr} {k : Position} {s t u : State} {i : Instr} {f : Fate} {rx : Bytes}

/-! ## The bytes -/

/-- A protected medium stores nothing, whatever the frame and its fate (R65, log 12, log 20). -/
theorem mediumFrame_protected (hprot : s.protect = true) (h : mediumFrame P i f s = .ok (rx, u)) : u.mem = s.mem := by
  obtain ⟨-, ⟨v, -, rfl, -⟩ | ⟨a, n, -, rfl, -⟩ | ⟨a, d, -, hwrite, -⟩⟩ := mediumFrame_ok h
  · exact mediumLatch_mem v f s
  · rfl
  · obtain ⟨-, -, hmem | ⟨hw, -⟩⟩ := mediumWriteAt_ok hwrite
    · exact hmem
    · simp [State.writable, hprot] at hw

/-- An exchange at a protected medium changes no byte, a loss of power apart (R236). -/
theorem completeExchange_protected {o : TransportOutcome} (hprot : s.protect = true)
    (h : completeExchange P c k (.returns o f) s = .ok t) : t.mem = s.mem := by
  obtain ⟨x, i, -, -, ⟨b, w, u, ha, -⟩ | ⟨o', f', rx, u, -, hm, hafter⟩⟩ := completeExchange_ok h
  · cases ha
  · exact (afterExchange_keeps hafter).mem.trans (mediumFrame_protected hprot hm :)

/-- What a run of exchanges at a protected medium keeps: the content `m`, the protection, and that power holds. -/
structure ProtectedContent (m : Mem) (s : State) : Prop where
  mem : s.mem = m
  protect : s.protect = true
  powered : s.powered = true

theorem ProtectedContent.afterExchange {a : Answer} {rest : List Answer} {m : Mem} (hs : ProtectedContent m s)
    (has : s.answers = a :: rest) (h : completeExchange P c k a { s with answers := rest } = .ok t) :
    ProtectedContent m t := by
  obtain ⟨hmem, hprot, hpow⟩ := hs
  simp only [State.powered, has, List.all_cons, Bool.and_eq_true] at hpow
  obtain ⟨hanswers, -, hprot', -⟩ := completeExchange_channels h
  cases a with
  | powerLoss b wel => cases hpow.1
  | returns o f =>
    refine ⟨(completeExchange_protected (s := { s with answers := rest }) hprot h).trans hmem, hprot'.trans hprot, ?_⟩
    rw [State.powered, hanswers]
    exact hpow.2

/-- A run of exchanges from a state with the inputs and the medium of `s`. -/
theorem runAnswers_protected (hprot : s.protect = true) (hpow : s.powered = true) (hk : Keeps s u)
    (h : runAnswers P s.answers u = .ok t) : t.mem = s.mem := by
  have hu : ProtectedContent s.mem u :=
    ⟨hk.mem, hk.protect.trans hprot, by rw [State.powered, hk.answers]; exact hpow⟩
  exact (runAnswers_keeps (Q := ProtectedContent s.mem) (fun _ _ _ _ _ _ hv _ has => hv.afterExchange has)
    hk.answers hu h).mem

theorem defer_mem (s : State) (P : Params) (c : Instr) : (s.defer P c).mem = s.mem := by
  unfold State.defer
  split <;> rfl

/-- Settles O24: beginning a command and waiting touch no byte, and no exchange changes one. -/
theorem protectedMediumKeepsItsBytes : Obligations.ProtectedMediumKeepsItsBytes := by
  refine fun s t i hprot hpow hi => ⟨fun h => ?_, fun c k hp h => ?_⟩
  · rw [exec_command hi] at h
    obtain ⟨c', k, -, rfl⟩ | ⟨-, u, hu, hrun⟩ := launch_next h
    · exact defer_mem ..
    · exact runAnswers_protected (s := s.accept i) hprot hpow (beginCommand_keeps hu) hrun
  · rw [step_running hp, outcomeOf_next] at h
    obtain ⟨u, hk, hrun⟩ := proceed_running hp h
    exact runAnswers_protected hprot hpow hk hrun

/-! ## APPEND -/

variable {job : WriteJob} {a : Nat} {b0 b1 d : Byte} {addr : Word} {x : Exchange} {rest : List Answer}

/-- A WRITE that meets a protected medium stores nothing, and clears the latch (R65, log 20). -/
theorem runAnswers_protectedWrite (ha : addr.toNat < 32768) (hprot : s.protect = true)
    (hx : exchangeAt Config.params c (.write job (.wrdi .ok)) s = .ok x) :
    runAnswers Config.params (Answer.good :: rest) (s.atGate c job .write (writeFrame Config.params addr d)) =
      runAnswers Config.params rest
        ((s.exchanged rest s.mem false [completed (writeFrame Config.params addr d) .ok []]).atGate c job (.wrdi .ok)
          x) := by
  refine runAnswers_atGate_goTo (decodeFrame_write addr d) ?_ rfl hx
  have hw : ¬ ({ s.atGate c job .write (writeFrame Config.params addr d) with answers := rest } : State).writable =
      true := fun h => Bool.noConfusion (hprot.symm.trans (writable_iff.mp h).2)
  rw [mediumFrame_writeDone ha, if_neg hw]
  rfl

/-- A window that reports no failure leaves a protected medium's bytes, and the read-back comes next (R111, R236). -/
theorem runAnswers_protectedWindow (hjob : jobTarget Config.params job s = .ok (a, b0, b1))
    (haddr : addr = BitVec.ofNat 16 (a + s.j.toNat)) (ha : addr.toNat < 32768) (hprot : s.protect = true) :
    runAnswers Config.params (goodThen 3 rest) (s.atWren c job) =
      runAnswers Config.params rest
        ((s.exchanged rest s.mem false ((storedRecord addr (byteAt s.j b0 b1)).take 3)).atGate c job .readBack
          (readFrame Config.params addr 1)) := by
  subst haddr
  calc _ = _ := runAnswers_goodWren (exchangeAt_write hjob)
    _ = _ := runAnswers_protectedWrite ha hprot ((exchangeAt_exchanged _).trans (exchangeAt_wrdi hjob .ok))
    _ = _ := runAnswers_goodWrdi
      ((exchangeAt_exchanged _).trans ((exchangeAt_exchanged _).trans (exchangeAt_readBack hjob)))
    _ = _ := by rw [State.exchanged_exchanged, State.exchanged_exchanged]; rfl

/-- A write whose byte differs from the protected one ends at its read-back (R131, R132, R236). -/
theorem runAnswers_protectedByte (hjob : jobTarget Config.params job s = .ok (a, b0, b1))
    (haddr : addr = BitVec.ofNat 16 (a + s.j.toNat)) (ha : addr.toNat < 32768) (hprot : s.protect = true)
    (hb : s.byte addr.toNat ≠ byteAt s.j b0 b1) :
    runAnswers Config.params (goodThen 4 rest) (s.atWren c job) =
      .ok ({ s.exchanged rest s.mem false ((storedRecord addr (byteAt s.j b0 b1)).take 3 ++
          [completed (readFrame Config.params addr 1) .ok [s.byte addr.toNat]]) with
        rb := s.byte addr.toNat }.answered (beat .writeFailed true 0)) := by
  refine (runAnswers_protectedWindow (rest := goodThen 1 rest) hjob haddr ha hprot).trans ?_
  have hcomplete := completeExchange_mismatch (c := c) (s := { (s.exchanged (goodThen 1 rest) s.mem false
    ((storedRecord addr (byteAt s.j b0 b1)).take 3)).atGate c job .readBack (readFrame Config.params addr 1) with
      answers := rest }) ha rfl hjob hb
  refine (runAnswers_cons (a := Answer.good) (rest := rest) rfl).trans ?_
  rw [hcomplete]
  refine (runAnswers_idle rfl).trans ?_
  simp only [State.exchanged, State.atGate, State.answered, List.append_assoc]
  rfl

/-- Settles O37: the payload's first byte is in place only if it was there before, and the read-back tells. -/
theorem protectedAppendIsWriteFailed : Obligations.ProtectedAppendIsWriteFailed := by
  intro s level thread code rest hp hprot hm hr hl ht hc has w old hne
  let c : Instr := .append level thread code
  let v : State := { s.accept c with hi := hiByte w, lo := loByte w, j := 0 }
  have hstart : beginCommand Config.params c (s.accept c) = .ok (v.atWren c .payload) :=
    (startAppend_ready (s := s.accept c) hr.1 hl ht hc).trans (startWrite_of_jobTarget (jobTarget_payload hr.1))
  have haddr : s.cursor = BitVec.ofNat 16 (s.cursor.toNat + v.j.toNat) := by simp [v]
  have hlt : s.cursor.toNat < 32768 := Nat.lt_of_succ_lt (validSlot_toNat hr.2.2).2
  have hrun := runAnswers_protectedByte (s := v) (c := c) (rest := rest) (jobTarget_payload hr.1) haddr hlt hprot hne
  rw [exec_of_begin rfl hp hstart, has, outcomeOf_next, hrun]
  simp only [State.exchanged, List.append_assoc]
  rfl

end Sys2Proof.Machine
end
